-- ==== Sys2Proof/Word.lean ====
section
/-! DEFINITION. Word.lean: the widths the block moves (R8, R14, R36).
The unit of transfer at every port is the byte; opcodes and arguments are 16 bits wide; decoded fields are 32 bits wide.
The block does no arithmetic (R62, R86), so nothing but the widths stands here. -/

namespace Sys2Proof

/-- A byte, the unit of transfer at every port (R14, R36). -/
abbrev Byte := BitVec 8

/-- An opcode or an argument (R8). -/
abbrev Half := BitVec 16

/-- A decoded field: an IEEE-754 binary32 bit pattern, never interpreted (R8, R15, R85). -/
abbrev FloatBits := BitVec 32

end Sys2Proof
end

