-- ==== Sys2Proof/Config.lean ====
section
/-! DEFINITION. Config.lean: what is fixed when the block is built, and the free values (R11, R12, R13, R90, R92, R117).
The values the spec leaves OPEN are opaque constants without a body: a claim about the machine holds whatever they are. -/

namespace Sys2Proof

/-- The nine 16-bit opcodes the source does not give, as one value (R11, R13).
Functions that depend on them take such a value as an argument (R11); the machine itself uses `Config.opcodes`. -/
structure OpcodeParams where
  stop        : Half
  setInterval : Half
  dataReady   : Half
  readMeas    : Half
  frc         : Half
  tempOffset  : Half
  altitude    : Half
  fwVersion   : Half
  softReset   : Half
  deriving DecidableEq, Repr

/-- The transport's error type `E`: opaque, only ever passed through unchanged (R89, R93, U6).
DESIGN CHOICE: an error is known by a number, so that states can be compared (log 8). -/
structure TransportError where
  code : Nat
  deriving DecidableEq, Repr, Inhabited

/-- The outcome of one transport call, `Result<(), E>` (R89). -/
inductive TransportResult where
  | ok
  | err (e : TransportError)
  deriving DecidableEq, Repr, Inhabited

/-- What one transport read brings: its outcome and the 18 bytes the buffer holds after it (R92).
The bytes are drawn after a failed read too, because no rule says what the buffer then holds (log 7). -/
structure ReadDraw where
  result : TransportResult
  bytes  : Vector Byte 18
  deriving DecidableEq, Repr, Inhabited

/-- The direction of a transport call (R89). -/
inductive Direction where
  | write
  | read
  deriving DecidableEq, Repr

namespace Config

/-- `MAX_FRAME` (R6, R13). -/
def maxFrame : Nat := 4

/-- `RESP_LEN` (R7, R13). -/
def respLen : Nat := 18

/-- `OPCODE_STOP` (R11, R65): OPEN. -/
opaque opcodeStop : Half
/-- `OPCODE_SET_INTERVAL` (R11, R66): OPEN. -/
opaque opcodeSetInterval : Half
/-- `OPCODE_DATA_READY` (R11, R67): OPEN. -/
opaque opcodeDataReady : Half
/-- `OPCODE_READ_MEAS` (R11, R68): OPEN. -/
opaque opcodeReadMeas : Half
/-- `OPCODE_FRC` (R11, R70): OPEN. -/
opaque opcodeFrc : Half
/-- `OPCODE_TEMP_OFFSET` (R11, R71): OPEN. -/
opaque opcodeTempOffset : Half
/-- `OPCODE_ALTITUDE` (R11, R72): OPEN. -/
opaque opcodeAltitude : Half
/-- `OPCODE_FW_VERSION` (R11, R73): OPEN. -/
opaque opcodeFwVersion : Half
/-- `OPCODE_SOFT_RESET` (R11, R74): OPEN. -/
opaque opcodeSoftReset : Half

/-- The opcodes this block was built with (R20). -/
def opcodes : OpcodeParams :=
  { stop := opcodeStop, setInterval := opcodeSetInterval, dataReady := opcodeDataReady,
    readMeas := opcodeReadMeas, frc := opcodeFrc, tempOffset := opcodeTempOffset,
    altitude := opcodeAltitude, fwVersion := opcodeFwVersion, softReset := opcodeSoftReset }

/-- `BUS_ADDR7` (R12, R90): the sensor's 7-bit bus address, OPEN, used by the host only. -/
opaque busAddr7 : BitVec 7

/-- `ADDR_RW_CONVENTION` (R90): the low bit of the shifted address, by direction, OPEN, the transport's business. -/
opaque addrRwConvention : Direction → BitVec 1

/-- `T_WR_RD` (R13, R117): the write-to-read delay, OPEN. The model has no time and no rule reads it. -/
opaque tWrRd : Nat

/-- FREE VALUE (R92): how a transport write ends, by the number of calls made before it, where the state lists no draw. -/
opaque freeWriteResult : Nat → TransportResult

/-- FREE VALUE (R92): what a transport read brings, by the number of calls made before it, where the state lists no draw. -/
opaque freeReadDraw : Nat → ReadDraw

end Config
end Sys2Proof
end

