-- ==== Sys2Proof/Syntax.lean ====
section
/-! DEFINITION. Syntax.lean: the commands, and the instructions: one constructor per row of spec/opcode_table.json.
An instruction is what the host presents at a unit's input ports for one evaluation (R18, R23, R25):
for the CFE a command, a form and, in the form that has one, an argument; for the MRD the response bytes. -/

namespace Sys2Proof

/-- The eleven commands, a closed enumeration, in the source's order (R9, R53). -/
inductive Command where
  | start
  | stop
  | setInterval
  | dataReady
  | readMeas
  | asc
  | frc
  | tempOffset
  | altitude
  | fwVersion
  | softReset
  deriving DecidableEq, Repr

/-- The three formats (R48). -/
inductive Format where
  | f2
  | f4
  | r18
  deriving DecidableEq, Repr

/-- One constructor per row of the opcode table: `ENC` and `ENCA` of each command, and `DEC`.
`arg` is the CFE's 16-bit `arg` port (R23).
`rx` is the byte sequence at the MRD's response port (R25); a well-formed `dec` holds exactly 18 bytes. -/
inductive Instr where
  | encStart
  | encaStart (arg : Half)
  | encStop
  | encaStop (arg : Half)
  | encSetInterval
  | encaSetInterval (arg : Half)
  | encDataReady
  | encaDataReady (arg : Half)
  | encReadMeas
  | encaReadMeas (arg : Half)
  | encAsc
  | encaAsc (arg : Half)
  | encFrc
  | encaFrc (arg : Half)
  | encTempOffset
  | encaTempOffset (arg : Half)
  | encAltitude
  | encaAltitude (arg : Half)
  | encFwVersion
  | encaFwVersion (arg : Half)
  | encSoftReset
  | encaSoftReset (arg : Half)
  | dec (rx : List Byte)
  deriving DecidableEq, Repr

/-- The block's three operations (R58, R110), with the operands each takes. -/
inductive Operation where
  | enc (c : Command)
  | enca (c : Command) (arg : Half)
  | dec (rx : List Byte)
  deriving DecidableEq, Repr

/-- The spec's pseudo-instructions (R58). -/
inductive Pseudo where
  | startMeas
  | startMeasP (p : Half)
  | ascOn
  | ascOff
  | softResetReq
  | readReq
  deriving DecidableEq, Repr

/-- The values the host presents at one unit's input ports (R23, R25). -/
inductive PortInput where
  | cfe (cmdSel : BitVec 4) (withArg : Bool) (arg : Half)
  | mrd (rx : List Byte)
  deriving DecidableEq, Repr

end Sys2Proof
end

