-- ==== Sys2Proof/WellFormed.lean ====
section
/-! DEFINITION. WellFormed.lean: which instructions the ports can hold (R25, R102).
The selector and the argument cannot be ill-formed: the command is a constructor and the argument is 16 bits wide (R53, R62). -/

namespace Sys2Proof

/-- A `DEC` is well-formed when it holds exactly 18 bytes (R7, R25, R102); every CFE operation is. -/
def Instr.wellFormed : Instr → Bool
  | .encStart => true
  | .encaStart _ => true
  | .encStop => true
  | .encaStop _ => true
  | .encSetInterval => true
  | .encaSetInterval _ => true
  | .encDataReady => true
  | .encaDataReady _ => true
  | .encReadMeas => true
  | .encaReadMeas _ => true
  | .encAsc => true
  | .encaAsc _ => true
  | .encFrc => true
  | .encaFrc _ => true
  | .encTempOffset => true
  | .encaTempOffset _ => true
  | .encAltitude => true
  | .encaAltitude _ => true
  | .encFwVersion => true
  | .encaFwVersion _ => true
  | .encSoftReset => true
  | .encaSoftReset _ => true
  | .dec rx => rx.length == Config.respLen

end Sys2Proof
end

