-- ==== Sys2Proof/Decode.lean ====
section
/-! DEFINITION. Decode.lean: byte order, the opcode map and the selector map; reading an instruction from the ports (what the
block does, R23, R25, R53) and from its opcode-table word (R49, R50, R54); and the two encoders.
The block itself decodes no words (R18, 30_encoding.md): the table form is the frame an operation drives, or the response it takes. -/

namespace Sys2Proof

/-! ## Byte order (R14, R32, R33) -/

/-- `v[15:8]`. -/
def hi8 (v : Half) : Byte := v.extractLsb' 8 8

/-- `v[7:0]`. -/
def lo8 (v : Half) : Byte := v.extractLsb' 0 8

/-- `be16_bytes(v16) = [v16[15:8], v16[7:0]]` (R14). -/
def be16Bytes (v : Half) : List Byte := [hi8 v, lo8 v]

/-- `be16(hi, lo) = hi || lo` (R14). -/
def be16 (hi lo : Byte) : Half := hi ++ lo

/-- `be32(b0, b1, b2, b3)`, with `b0` in bits 31:24 (R14). -/
def be32 (b0 b1 b2 b3 : Byte) : FloatBits := b0 ++ b1 ++ b2 ++ b3

/-- The `n` low bytes of a number, the most significant first: how a table word of `n` bytes lies on the wire (R32, R49, R50). -/
def bigEndianBytes : Nat → Nat → List Byte
  | 0, _ => []
  | n + 1, w => BitVec.ofNat 8 (w / 256 ^ n) :: bigEndianBytes n w

/-! ## The command selector (R53) and the opcode map (R54) -/

/-- The CFE's 4-bit code of a command: its place in the source's list (R53). -/
def Command.sel : Command → BitVec 4
  | .start => 0
  | .stop => 1
  | .setInterval => 2
  | .dataReady => 3
  | .readMeas => 4
  | .asc => 5
  | .frc => 6
  | .tempOffset => 7
  | .altitude => 8
  | .fwVersion => 9
  | .softReset => 10

/-- The command a selector code names; codes 11 to 15 name none (R53, R56). -/
def Command.ofSel (sel : BitVec 4) : Option Command :=
  match sel.toNat with
  | 0 => some .start
  | 1 => some .stop
  | 2 => some .setInterval
  | 3 => some .dataReady
  | 4 => some .readMeas
  | 5 => some .asc
  | 6 => some .frc
  | 7 => some .tempOffset
  | 8 => some .altitude
  | 9 => some .fwVersion
  | 10 => some .softReset
  | _ => none

/-- `OPCODE(cmd)`: two opcodes the source gives (R10) and nine parameters (R11, R54). -/
def opcode (p : OpcodeParams) : Command → Half
  | .start => 0x0010
  | .stop => p.stop
  | .setInterval => p.setInterval
  | .dataReady => p.dataReady
  | .readMeas => p.readMeas
  | .asc => 0x5306
  | .frc => p.frc
  | .tempOffset => p.tempOffset
  | .altitude => p.altitude
  | .fwVersion => p.fwVersion
  | .softReset => p.softReset

/-- The order in which the reverse lookup tries the commands: the two opcodes the source gives come first.
DESIGN CHOICE (log 11): it matters only where two opcodes are equal, which no rule excludes (R54, D25). -/
def lookupOrder : List Command :=
  [.start, .asc, .stop, .setInterval, .dataReady, .readMeas, .frc, .tempOffset, .altitude, .fwVersion, .softReset]

/-- The command a frame's opcode stands for, if any: the reverse lookup of D25. -/
def commandOf (p : OpcodeParams) (op : Half) : Option Command :=
  lookupOrder.find? fun c => opcode p c == op

/-- The premise of every reverse lookup (D25): the eleven opcodes differ.
No rule of the machine assumes it (R54). -/
abbrev OpcodeParams.Distinct (p : OpcodeParams) : Prop := (lookupOrder.map (opcode p)).Nodup

/-- The frame form the source names for the driver's use of a command; none for five of them (R55). -/
def Command.driverForm : Command → Option Format
  | .start => some .f4
  | .stop => some .f2
  | .setInterval => none
  | .dataReady => some .f2
  | .readMeas => some .f2
  | .asc => some .f4
  | .frc => none
  | .tempOffset => none
  | .altitude => none
  | .fwVersion => none
  | .softReset => some .f2

/-! ## Instructions and the block's three operations (R58) -/

/-- The operation an instruction requests. -/
def Instr.operation : Instr → Operation
  | .encStart => .enc .start
  | .encaStart a => .enca .start a
  | .encStop => .enc .stop
  | .encaStop a => .enca .stop a
  | .encSetInterval => .enc .setInterval
  | .encaSetInterval a => .enca .setInterval a
  | .encDataReady => .enc .dataReady
  | .encaDataReady a => .enca .dataReady a
  | .encReadMeas => .enc .readMeas
  | .encaReadMeas a => .enca .readMeas a
  | .encAsc => .enc .asc
  | .encaAsc a => .enca .asc a
  | .encFrc => .enc .frc
  | .encaFrc a => .enca .frc a
  | .encTempOffset => .enc .tempOffset
  | .encaTempOffset a => .enca .tempOffset a
  | .encAltitude => .enc .altitude
  | .encaAltitude a => .enca .altitude a
  | .encFwVersion => .enc .fwVersion
  | .encaFwVersion a => .enca .fwVersion a
  | .encSoftReset => .enc .softReset
  | .encaSoftReset a => .enca .softReset a
  | .dec rx => .dec rx

/-- The instruction that requests an operation. -/
def Operation.instr : Operation → Instr
  | .enc .start => .encStart
  | .enca .start a => .encaStart a
  | .enc .stop => .encStop
  | .enca .stop a => .encaStop a
  | .enc .setInterval => .encSetInterval
  | .enca .setInterval a => .encaSetInterval a
  | .enc .dataReady => .encDataReady
  | .enca .dataReady a => .encaDataReady a
  | .enc .readMeas => .encReadMeas
  | .enca .readMeas a => .encaReadMeas a
  | .enc .asc => .encAsc
  | .enca .asc a => .encaAsc a
  | .enc .frc => .encFrc
  | .enca .frc a => .encaFrc a
  | .enc .tempOffset => .encTempOffset
  | .enca .tempOffset a => .encaTempOffset a
  | .enc .altitude => .encAltitude
  | .enca .altitude a => .encaAltitude a
  | .enc .fwVersion => .encFwVersion
  | .enca .fwVersion a => .encaFwVersion a
  | .enc .softReset => .encSoftReset
  | .enca .softReset a => .encaSoftReset a
  | .dec rx => .dec rx

/-- `ENC <cmd>` (R58). -/
def Instr.enc (c : Command) : Instr := (Operation.enc c).instr

/-- `ENCA <cmd>, <imm16>` (R58). -/
def Instr.enca (c : Command) (arg : Half) : Instr := (Operation.enca c arg).instr

/-- Each pseudo-instruction's expansion (R58). -/
def Pseudo.expand : Pseudo → Instr
  | .startMeas => .encaStart 0
  | .startMeasP p => .encaStart p
  | .ascOn => .encaAsc 1
  | .ascOff => .encaAsc 0
  | .softResetReq => .encSoftReset
  | .readReq => .encReadMeas

/-- The format an operation produces or consumes (R48). -/
def Instr.format (i : Instr) : Format :=
  match i.operation with
  | .enc _ => .f2
  | .enca _ _ => .f4
  | .dec _ => .r18

/-- A format's length in bytes (R48). -/
def Format.bytes : Format → Nat
  | .f2 => 2
  | .f4 => 4
  | .r18 => 18

/-! ## Reading an instruction from the ports (R23, R25, R53) -/

/-- Why the ports name no instruction. -/
inductive PortReject where
  /-- `cmd_sel` holds one of the codes 11 to 15 (R56). -/
  | reservedSelector (n : BitVec 4)
  deriving DecidableEq, Repr

/-- The instruction the ports request: `with_arg` selects the form, and `arg` is not read where it is 0 (R23, R53, R56).
The response port is taken whole, of whatever length; `DEC` itself refuses one that is not 18 bytes long (R102, R103). -/
def decodePorts : PortInput → Except PortReject Instr
  | .cfe sel withArg arg =>
    match Command.ofSel sel with
    | some c => .ok (if withArg then .enca c arg else .enc c)
    | none => .error (.reservedSelector sel)
  | .mrd rx => .ok (.dec rx)

/-- The port values that request an instruction; an `ENC`'s unread `arg` is given as 0 (R23). -/
def encodePorts (i : Instr) : PortInput :=
  match i.operation with
  | .enc c => .cfe c.sel false 0
  | .enca c a => .cfe c.sel true a
  | .dec rx => .mrd rx

/-! ## Reading an instruction from its opcode-table word (R48, R49, R50, R54) -/

/-- Why a byte sequence is no opcode-table word. -/
inductive WireReject where
  /-- A frame's first two bytes are none of the eleven opcodes (R56). -/
  | unknownOpcode (op : Half)
  /-- No format has this length (R48). -/
  | noFormat (n : Nat)
  deriving DecidableEq, Repr

/-- The instruction whose table word these bytes are, in wire order: only the length tells the formats apart (R48, R57),
a frame begins with its opcode (R49), and every 18 bytes are a response (R50, R56). -/
def decodeWire (p : OpcodeParams) (bytes : List Byte) : Except WireReject Instr :=
  match bytes with
  | [b0, b1] =>
    match commandOf p (be16 b0 b1) with
    | some c => .ok (.enc c)
    | none => .error (.unknownOpcode (be16 b0 b1))
  | [b0, b1, b2, b3] =>
    match commandOf p (be16 b0 b1) with
    | some c => .ok (.enca c (be16 b2 b3))
    | none => .error (.unknownOpcode (be16 b0 b1))
  | bs => if bs.length == Config.respLen then .ok (.dec bs) else .error (.noFormat bs.length)

/-- An instruction's opcode-table word, in wire order (R49, R50, R51, R54). -/
def encode (p : OpcodeParams) (i : Instr) : List Byte :=
  match i.operation with
  | .enc c => be16Bytes (opcode p c)
  | .enca c a => be16Bytes (opcode p c) ++ be16Bytes a
  | .dec rx => rx

/-- The instruction of a table word of `nbits` bits for given opcodes, numbered as spec/opcode_table.json numbers them: each row is ONE
big-endian number whose bit 0 is the least significant bit of its last byte (R49, R50; DEDUCED, log 12).
DESIGN CHOICE (log 12): the spec gives no word whose bit count is not a whole number of bytes, and here such a word names no instruction;
bits of `w` at `nbits` and above are no part of the word and are not read. -/
def readTableWord (p : OpcodeParams) (nbits w : Nat) : Option Instr :=
  if nbits % 8 = 0 then
    match decodeWire p (bigEndianBytes (nbits / 8) w) with
    | .ok i => some i
    | .error _ => none
  else none

/-- The instruction of a table word for the opcodes the block was built with (R20, R54; log 12: a bit count other than 16, 32 and 144,
a multiple of 8 or not, names no instruction). -/
def decodeTableWord (nbits w : Nat) : Option Instr := readTableWord Config.opcodes nbits w

end Sys2Proof
end

