-- ==== Sys2Proof/Machine/State.lean ====
section
/-! DEFINITION. State.lean: the state, its value after reset, and the reasons a step can stop.
The block holds no architectural state (R16 to R21). State holds the ports' values (R24, R25, R26, R29), what the host
interface is made of (R89 to R99: pending requests, transport outcomes, transport log, results), and nothing else. -/

namespace Sys2Proof.Machine

/-- The CFE's output ports after an operation (R24). -/
structure CfeOutput where
  frame    : List Byte
  frameLen : Nat
  deriving DecidableEq, Repr

/-- The MRD's output ports after an operation (R26). -/
structure MrdOutput where
  co2         : FloatBits
  temperature : FloatBits
  humidity    : FloatBits
  chk         : Vector Byte 6
  deriving DecidableEq, Repr

/-- What `read()` returns: the three fields, in this order (R80, R98). -/
structure Measurement where
  co2         : FloatBits
  temperature : FloatBits
  humidity    : FloatBits
  deriving DecidableEq, Repr

/-- The result a host operation returns: `Ok(())`, `Ok(Measurement)` or the transport's own error (R93 to R98). -/
inductive HostResult where
  | done
  | measured (m : Measurement)
  | err (e : TransportError)
  deriving DecidableEq, Repr

/-- A transport call as the log records it (R89, R90): the 7-bit address, and the bytes written or the number of bytes read. -/
inductive TransportCall where
  | write (addr : BitVec 7) (bytes : List Byte)
  | read (addr : BitVec 7) (len : Nat)
  deriving DecidableEq, Repr

/-- The driver facade's five operations (R94 to R99). -/
inductive FacadeOp where
  | reset
  | startMeasuring
  | startMeasuringWithPressure (p : Half)
  | setAutomaticCalibration (enabled : Bool)
  | read
  deriving DecidableEq, Repr

/-- What the host asks for next (R18, R58, R99, R100). -/
inductive Request where
  /-- An operation of the CFE, as port values (R23). -/
  | cfe (cmdSel : BitVec 4) (withArg : Bool) (arg : Half)
  /-- `DEC` on the bytes at `RX` (R25, R58). -/
  | mrd
  /-- `WR frame`: one transport write of the frame port (R58, R89). -/
  | wr
  /-- `RD 18`: one transport read of 18 bytes into `RX` (R58, R89). -/
  | rd
  /-- The host puts a byte sequence of its own into the response buffer (R29, R100, R102). -/
  | fill (bytes : List Byte)
  /-- One operation of the driver facade (R94 to R98). -/
  | facade (op : FacadeOp)
  deriving DecidableEq, Repr

/-- An output port group that can be read (R24, R26). -/
inductive OutputPort where
  | frame
  | measurement
  deriving DecidableEq, Repr

/-- The reasons the machine faults: none, because the spec names no trap, no stuck state and no error of the block (R101, 93_implementation_defined.md).
The type is empty, so no step can end in a fault: safe only as far as the spec's own "no behaviour is treated as fault or stuck" goes. -/
inductive Fault where
  deriving DecidableEq, Repr

/-- The reasons a step is refused (R103, U7, U8, U9). -/
inductive Refusal where
  /-- Raised by an arm of `exec` for an instruction without a meaning; no arm is left that raises it. Safe. -/
  | notModelled (mnemonic : String)
  /-- Raised by the request of `ENC` or `ENCA` with a `cmd_sel` from 11 to 15 (R56, R103). Safe: nothing can be proved of such an operation. -/
  | reservedSelector (n : BitVec 4)
  /-- Raised by `DEC` on a byte sequence of `n` bytes, `n` other than 18 (R102, R103). Safe. -/
  | responseLength (n : Nat)
  /-- Raised by the host's read of an output port that holds no value: before any operation, or beyond `frame_len` (U8, U9, D6, D14).
  `WR frame` before any CFE operation raises it. Safe. -/
  | outputNoValue (port : OutputPort)
  deriving DecidableEq, Repr

/-- The machine: the block's ports, and its host. -/
@[ext]
structure State where
  /-- MODEL'S OWN (log 1): what the host asks for, the next request first (R18, R42). -/
  requests   : List Request
  /-- The CFE's last outputs; none before any CFE operation (R24, R27; log 2). -/
  cfe        : Option CfeOutput
  /-- The MRD's last outputs; none before any `DEC` (R26, R27; log 2). -/
  mrd        : Option MrdOutput
  /-- The response buffer space `RX` (R25, R29, R30), index 0 first. -/
  rx         : List Byte
  /-- MODEL'S OWN (log 6): how the next transport writes end, where that is fixed beforehand (R92). -/
  writeDraws : List TransportResult
  /-- MODEL'S OWN (log 6): what the next transport reads bring, where that is fixed beforehand (R92). -/
  readDraws  : List ReadDraw
  /-- The transport log, the first call first (R92 to R98, 95_test_vectors.md L3). -/
  log        : List TransportCall
  /-- How the last transport call ended (R89, R93). -/
  lastCall   : Option TransportResult
  /-- The results host operations returned, the first one first (R93 to R98). -/
  results    : List HostResult
  deriving DecidableEq, Repr

/-- After reset: no request pending, no output holds a value, the buffer holds no byte, no call made (R27, R112; logs 1, 2, 6, 9, 20). -/
def State.reset : State :=
  { requests := [], cfe := none, mrd := none, rx := [], writeDraws := [], readDraws := [],
    log := [], lastCall := none, results := [] }

end Sys2Proof.Machine
end

