-- ==== Sys2Proof/Machine/Operands.lean ====
section
/-! DEFINITION. Operands.lean: how the two units put their results together: the frame from opcode and argument (R49, R51), and the
three fields and six check bytes from the response (R50, R52, R75 to R83). No unit does arithmetic (R62, R86). -/

namespace Sys2Proof.Machine

/-- The 2-byte frame F2 of a command: its opcode, big-endian (R49, R59). -/
def frameF2 (p : OpcodeParams) (c : Command) : List Byte := be16Bytes (opcode p c)

/-- The 4-byte frame F4: the opcode, then the argument verbatim, both big-endian (R49, R51, R60). -/
def frameF4 (p : OpcodeParams) (c : Command) (arg : Half) : List Byte := be16Bytes (opcode p c) ++ be16Bytes arg

/-- The MRD's outputs for a response: each 6-byte response word `[d0, d1, check0, d2, d3, check1]` gives one field and two check
bytes (R50, R75, R83). None where the sequence is not 18 bytes long (R102). The check bytes are not validated (R82, R88). -/
def decodeResponse : List Byte → Option MrdOutput
  | [a0, a1, a2, a3, a4, a5, b0, b1, b2, b3, b4, b5, c0, c1, c2, c3, c4, c5] =>
    some { co2 := be32 a0 a1 a3 a4
           temperature := be32 b0 b1 b3 b4
           humidity := be32 c0 c1 c3 c4
           chk := #v[a2, a5, b2, b5, c2, c5] }
  | _ => none

/-- One response word as a sensor lays it out: `[d0, d1, check0, d2, d3, check1]` (R50). -/
def responseWord (w : FloatBits) (check0 check1 : Byte) : List Byte :=
  [w.extractLsb' 24 8, w.extractLsb' 16 8, check0, w.extractLsb' 8 8, w.extractLsb' 0 8, check1]

/-- The 18-byte response that carries three patterns and six check bytes (R50): the sender's side of `decodeResponse`. -/
def responseOf (co2 temperature humidity : FloatBits) (c0 c1 c2 c3 c4 c5 : Byte) : List Byte :=
  responseWord co2 c0 c1 ++ responseWord temperature c2 c3 ++ responseWord humidity c4 c5

/-- The `Measurement` a host builds from the MRD's outputs (R80, R98). -/
def MrdOutput.measurement (o : MrdOutput) : Measurement :=
  { co2 := o.co2, temperature := o.temperature, humidity := o.humidity }

/-- The argument `f` of `set_automatic_calibration`: 1 if enabled, else 0 (R69, R97). -/
def ascFlag (enabled : Bool) : Half := if enabled then 1 else 0

end Sys2Proof.Machine
end

