-- ==== Sys2Proof/Machine/Ops.lean ====
section
/-! DEFINITION. Ops.lean: the named operations on the state: driving and reading the output ports, the response buffer, the host's
records, and the two encoder operations and the decoder operation that every instruction's meaning is one line over.
There is no exception to take and none to return from (R101, R107, R108): a refusal is the only non-result outcome (R103). -/

namespace Sys2Proof.Machine

/-- How a step or an operation ends. -/
abbrev Result := Host.Outcome State Fault Refusal

/-- Goes on after a next state; a stop stays that stop (R103: it marks the whole run). -/
def andThen (o : Result) (k : State → Result) : Result :=
  match o with
  | .next s => k s
  | .fault f => .fault f
  | .refused r => .refused r

/-! ## Output ports and the response buffer -/

/-- `frame <- f; frame_len <- n` (R24). -/
def State.driveFrame (f : List Byte) (n : Nat) (s : State) : State := { s with cfe := some { frame := f, frameLen := n } }

/-- Drives all the MRD's output ports at once (R26, R39). -/
def State.driveMeasurement (o : MrdOutput) (s : State) : State := { s with mrd := some o }

/-- The host fills the response buffer (R29). -/
def State.fillRx (bytes : List Byte) (s : State) : State := { s with rx := bytes }

/-- The bytes the host reads at the frame port: exactly `frame_len` bytes, in index order (R24, R100); no value before any CFE operation (R27, U9). -/
def readFrame (s : State) : Except Refusal (List Byte) :=
  match s.cfe with
  | some o => .ok (o.frame.take o.frameLen)
  | none => .error (.outputNoValue .frame)

/-- One byte of the frame port; a byte at or beyond `frame_len` holds no value (R24, U8, D6). -/
def readFrameByte (i : Nat) (s : State) : Except Refusal Byte :=
  match readFrame s with
  | .ok f =>
    match f[i]? with
    | some b => .ok b
    | none => .error (.outputNoValue .frame)
  | .error r => .error r

/-- The MRD's output ports as the host reads them; no value before any `DEC` (R27, U9). -/
def readMeasurement (s : State) : Except Refusal MrdOutput :=
  match s.mrd with
  | some o => .ok o
  | none => .error (.outputNoValue .measurement)

/-! ## The host's records -/

/-- The request list after one is taken. -/
def State.withRequests (q : List Request) (s : State) : State := { s with requests := q }

/-- Records one transport call and how it ended (R89, R93). -/
def State.logCall (c : TransportCall) (r : TransportResult) (s : State) : State :=
  { s with log := s.log ++ [c], lastCall := some r }

/-- A host operation returns its result to its caller (R93). -/
def State.giveResult (r : HostResult) (s : State) : State := { s with results := s.results ++ [r] }

/-! ## The block's operations (R59, R60, R75) -/

/-- `ENC`: the command's opcode, big-endian, 2 bytes (R59). -/
def encOp (c : Command) (s : State) : Result := .next (s.driveFrame (frameF2 Config.opcodes c) 2)

/-- `ENCA`: the command's opcode and the argument, each big-endian, 4 bytes (R60). -/
def encaOp (c : Command) (arg : Half) (s : State) : Result := .next (s.driveFrame (frameF4 Config.opcodes c arg) 4)

/-- `DEC`: every 18-byte response gives the three fields and the check bytes (R75, R84); any other length is refused (R102, R103). -/
def decOp (rx : List Byte) (s : State) : Result :=
  match decodeResponse rx with
  | some o => .next (s.driveMeasurement o)
  | none => .refused (.responseLength rx.length)

end Sys2Proof.Machine
end

