-- ==== Sys2Proof/Machine/Cfe.lean ====
section
/-! DEFINITION. Cfe.lean: the meanings of the Command Frame Encoder's 22 instructions (R59, R60, R64 to R74).
Each drives the frame port and nothing else, in every state (R61). -/

namespace Sys2Proof.Machine

/-- `ENC START` (R64, R59). -/
def execEncStart (s : State) : Result := encOp .start s

/-- `ENCA START, arg` (R64, R60). -/
def execEncaStart (arg : Half) (s : State) : Result := encaOp .start arg s

/-- `ENC STOP` (R65, R59). -/
def execEncStop (s : State) : Result := encOp .stop s

/-- `ENCA STOP, arg` (R65, R60). -/
def execEncaStop (arg : Half) (s : State) : Result := encaOp .stop arg s

/-- `ENC SET_INTERVAL` (R66, R59). -/
def execEncSetInterval (s : State) : Result := encOp .setInterval s

/-- `ENCA SET_INTERVAL, arg` (R66, R60). -/
def execEncaSetInterval (arg : Half) (s : State) : Result := encaOp .setInterval arg s

/-- `ENC DATA_READY` (R67, R59). -/
def execEncDataReady (s : State) : Result := encOp .dataReady s

/-- `ENCA DATA_READY, arg` (R67, R60). -/
def execEncaDataReady (arg : Half) (s : State) : Result := encaOp .dataReady arg s

/-- `ENC READ_MEAS` (R68, R59). -/
def execEncReadMeas (s : State) : Result := encOp .readMeas s

/-- `ENCA READ_MEAS, arg` (R68, R60). -/
def execEncaReadMeas (arg : Half) (s : State) : Result := encaOp .readMeas arg s

/-- `ENC ASC` (R69, R59). -/
def execEncAsc (s : State) : Result := encOp .asc s

/-- `ENCA ASC, arg` (R69, R60). -/
def execEncaAsc (arg : Half) (s : State) : Result := encaOp .asc arg s

/-- `ENC FRC` (R70, R59). -/
def execEncFrc (s : State) : Result := encOp .frc s

/-- `ENCA FRC, arg` (R70, R60). -/
def execEncaFrc (arg : Half) (s : State) : Result := encaOp .frc arg s

/-- `ENC TEMP_OFFSET` (R71, R59). -/
def execEncTempOffset (s : State) : Result := encOp .tempOffset s

/-- `ENCA TEMP_OFFSET, arg` (R71, R60). -/
def execEncaTempOffset (arg : Half) (s : State) : Result := encaOp .tempOffset arg s

/-- `ENC ALTITUDE` (R72, R59). -/
def execEncAltitude (s : State) : Result := encOp .altitude s

/-- `ENCA ALTITUDE, arg` (R72, R60). -/
def execEncaAltitude (arg : Half) (s : State) : Result := encaOp .altitude arg s

/-- `ENC FW_VERSION` (R73, R59). -/
def execEncFwVersion (s : State) : Result := encOp .fwVersion s

/-- `ENCA FW_VERSION, arg` (R73, R60). -/
def execEncaFwVersion (arg : Half) (s : State) : Result := encaOp .fwVersion arg s

/-- `ENC SOFT_RESET` (R74, R59). -/
def execEncSoftReset (s : State) : Result := encOp .softReset s

/-- `ENCA SOFT_RESET, arg` (R74, R60). -/
def execEncaSoftReset (arg : Half) (s : State) : Result := encaOp .softReset arg s

end Sys2Proof.Machine
end

