-- ==== Sys2Proof/Machine/Flags.lean ====
section
/-! DEFINITION. Flags.lean: there is nothing to compute.
The block has no status flags, condition codes or predicates (R19), no operation writes one (R59, R60, R75: "Flags written: none"),
and the MRD sets no floating-point exception flags (R85). -/
end

