-- ==== Sys2Proof/Machine/Mrd.lean ====
section
/-! DEFINITION. Mrd.lean: the meaning of the Measurement Response Decoder's one instruction (R75). -/

namespace Sys2Proof.Machine

/-- `DEC` on the bytes at the response port (R75, R84, R102). -/
def execDec (rx : List Byte) (s : State) : Result := decOp rx s

end Sys2Proof.Machine
end

