-- ==== Sys2Proof/Machine/Dispatch.lean ====
section
/-! DEFINITION. Dispatch.lean: one arm per instruction. -/

namespace Sys2Proof.Machine

def exec (i : Instr) (s : State) : Host.Outcome State Fault Refusal :=
  match i with
  | .encStart => Sys2Proof.Machine.execEncStart s
  | .encaStart arg => Sys2Proof.Machine.execEncaStart arg s
  | .encStop => Sys2Proof.Machine.execEncStop s
  | .encaStop arg => Sys2Proof.Machine.execEncaStop arg s
  | .encSetInterval => Sys2Proof.Machine.execEncSetInterval s
  | .encaSetInterval arg => Sys2Proof.Machine.execEncaSetInterval arg s
  | .encDataReady => Sys2Proof.Machine.execEncDataReady s
  | .encaDataReady arg => Sys2Proof.Machine.execEncaDataReady arg s
  | .encReadMeas => Sys2Proof.Machine.execEncReadMeas s
  | .encaReadMeas arg => Sys2Proof.Machine.execEncaReadMeas arg s
  | .encAsc => Sys2Proof.Machine.execEncAsc s
  | .encaAsc arg => Sys2Proof.Machine.execEncaAsc arg s
  | .encFrc => Sys2Proof.Machine.execEncFrc s
  | .encaFrc arg => Sys2Proof.Machine.execEncaFrc arg s
  | .encTempOffset => Sys2Proof.Machine.execEncTempOffset s
  | .encaTempOffset arg => Sys2Proof.Machine.execEncaTempOffset arg s
  | .encAltitude => Sys2Proof.Machine.execEncAltitude s
  | .encaAltitude arg => Sys2Proof.Machine.execEncaAltitude arg s
  | .encFwVersion => Sys2Proof.Machine.execEncFwVersion s
  | .encaFwVersion arg => Sys2Proof.Machine.execEncaFwVersion arg s
  | .encSoftReset => Sys2Proof.Machine.execEncSoftReset s
  | .encaSoftReset arg => Sys2Proof.Machine.execEncaSoftReset arg s
  | .dec rx => Sys2Proof.Machine.execDec rx s

end Sys2Proof.Machine
end

