-- ==== Sys2Proof/Machine/Transport.lean ====
section
/-! DEFINITION. Transport.lean: the host's two transport calls, `WR frame` and `RD 18` (R58, R89 to R93). Their outcomes and the bytes
read are draws: listed in the state, or free values where the state lists none (R92). -/

namespace Sys2Proof.Machine

/-- How the next transport write ends (R92). -/
def State.writeResult (s : State) : TransportResult := s.writeDraws.headD (Config.freeWriteResult s.log.length)

/-- What the next transport read brings (R92). -/
def State.readDraw (s : State) : ReadDraw := s.readDraws.headD (Config.freeReadDraw s.log.length)

/-- One transport write of `bytes` to the sensor's address (R89, R90): it uses one draw and is recorded. -/
def State.afterWrite (bytes : List Byte) (s : State) : State :=
  { s with writeDraws := s.writeDraws.tail }.logCall (.write Config.busAddr7 bytes) s.writeResult

/-- One transport read of 18 bytes from the sensor's address into `RX` (R7, R39, R89, R90): it uses one draw and is recorded. -/
def State.afterRead (s : State) : State :=
  { s with readDraws := s.readDraws.tail, rx := s.readDraw.bytes.toList }.logCall (.read Config.busAddr7 Config.respLen) s.readDraw.result

/-- `WR frame`, then the host goes on with the call's outcome; the frame port must hold a value (R100, U9). -/
def wrThen (s : State) (k : TransportResult → State → Result) : Result :=
  match readFrame s with
  | .ok f => k s.writeResult (s.afterWrite f)
  | .error r => .refused r

/-- `RD 18`, then the host goes on with the call's outcome. -/
def rdThen (s : State) (k : TransportResult → State → Result) : Result := k s.readDraw.result s.afterRead

/-- The address byte the transport puts on the bus: the 7-bit address shifted left by one, and a low bit the spec leaves open (R12, R90).
It is the transport's own: no operation of the block or the host reads it (R31). -/
def addressByte (d : Direction) : Byte := Config.busAddr7 ++ Config.addrRwConvention d

end Sys2Proof.Machine
end

