-- ==== Sys2Proof/Machine/Facade.lean ====
section
/-! DEFINITION. Facade.lean: the driver facade's five operations (R94 to R99), each one step of the host (R91; log 13). -/

namespace Sys2Proof.Machine

/-- The result of an operation that writes one frame: the write's outcome, unchanged (R93). -/
def HostResult.ofWrite : TransportResult → HostResult
  | .ok => .done
  | .err e => .err e

/-- Encode, then one transport write, then the write's outcome as the result; no read (R93 to R97). -/
def sendCommand (c : Pseudo) (s : State) : Result :=
  andThen (exec c.expand s) fun s1 => wrThen s1 fun r s2 => .next (s2.giveResult (.ofWrite r))

/-- `reset()` (R94). -/
def facadeReset (s : State) : Result := sendCommand .softResetReq s

/-- `start_measuring()` (R95). -/
def facadeStartMeasuring (s : State) : Result := sendCommand .startMeas s

/-- `start_measuring_with_pressure(p)` (R96). -/
def facadeStartMeasuringWithPressure (p : Half) (s : State) : Result := sendCommand (.startMeasP p) s

/-- `set_automatic_calibration(enabled)` (R97). -/
def facadeSetAutomaticCalibration (enabled : Bool) (s : State) : Result :=
  sendCommand (if enabled then .ascOn else .ascOff) s

/-- The end of `read()`: `DEC` on the bytes just read, and the three fields as the result (R98). -/
def decodeAndReturn (s : State) : Result :=
  andThen (exec (.dec s.rx) s) fun s1 =>
    match readMeasurement s1 with
    | .ok o => .next (s1.giveResult (.measured o.measurement))
    | .error r => .refused r

/-- `read()`: the ReadMeasurement write, then, if it succeeded, one 18-byte read, then, if that succeeded, `DEC` (R98);
a failed call ends it with the transport's own error (R93). -/
def facadeRead (s : State) : Result :=
  andThen (exec Pseudo.readReq.expand s) fun s1 =>
    wrThen s1 fun r1 s2 =>
      match r1 with
      | .err e => .next (s2.giveResult (.err e))
      | .ok => rdThen s2 fun r2 s3 =>
        match r2 with
        | .err e => .next (s3.giveResult (.err e))
        | .ok => decodeAndReturn s3

/-- The facade's public surface (R99). -/
def runFacade (op : FacadeOp) (s : State) : Result :=
  match op with
  | .reset => facadeReset s
  | .startMeasuring => facadeStartMeasuring s
  | .startMeasuringWithPressure p => facadeStartMeasuringWithPressure p s
  | .setAutomaticCalibration e => facadeSetAutomaticCalibration e s
  | .read => facadeRead s

end Sys2Proof.Machine
end

