-- ==== Sys2Proof/Machine/Requests.lean ====
section
/-! DEFINITION. Requests.lean: what one host request does, and how an instruction is presented at the ports. -/

namespace Sys2Proof.Machine

/-- A port value that names no instruction is refused by name (R56, R103). -/
def Refusal.ofPorts : PortReject → Refusal
  | .reservedSelector n => .reservedSelector n

/-- Evaluates the unit whose ports the host drives with these values (R18, R23, R25). -/
def evalPorts (i : PortInput) (s : State) : Result :=
  match decodePorts i with
  | .ok instr => exec instr s
  | .error e => .refused (.ofPorts e)

/-- One request of the host (R58, R89, R99, R100). `DEC` takes the bytes `RX` holds (R30, R58). -/
def serve (r : Request) (s : State) : Result :=
  match r with
  | .cfe sel withArg arg => evalPorts (.cfe sel withArg arg) s
  | .mrd => evalPorts (.mrd s.rx) s
  | .wr => wrThen s fun _ s1 => .next s1
  | .rd => rdThen s fun _ s1 => .next s1
  | .fill bytes => .next (s.fillRx bytes)
  | .facade op => runFacade op s

/-- One step: the oldest request is taken and served; with none pending the block waits and nothing changes (R18, R42, R112; log 1). -/
def takeRequest (s : State) : Result :=
  match s.requests with
  | [] => .next s
  | r :: rest => serve r (s.withRequests rest)

/-- The state in which the host presents these port values next: a response goes into `RX`, and the request for it comes first. -/
def State.presentPorts (i : PortInput) (s : State) : State :=
  match i with
  | .cfe sel withArg arg => s.withRequests (.cfe sel withArg arg :: s.requests)
  | .mrd rx => (s.fillRx rx).withRequests (.mrd :: s.requests)

/-- The state in which the host requests this instruction next (R18, R23, R25, R53). -/
def State.present (i : Instr) (s : State) : State := s.presentPorts (encodePorts i)

/-- The host sequence each facade operation stands for, where its transport calls succeed (R94 to R98), in the spec's own syntax:
`ENC`/`ENCA` port values, `WR frame`, `RD 18`, `DEC`. -/
def FacadeOp.sequence : FacadeOp → List Request
  | .reset => [.cfe 10 false 0, .wr]
  | .startMeasuring => [.cfe 0 true 0, .wr]
  | .startMeasuringWithPressure p => [.cfe 0 true p, .wr]
  | .setAutomaticCalibration e => [.cfe 5 true (ascFlag e), .wr]
  | .read => [.cfe 4 false 0, .wr, .rd, .mrd]

end Sys2Proof.Machine
end

