-- ==== Sys2Proof/Machine/Step.lean ====
section
/-! DEFINITION. Step.lean: one step of the machine, and the placing of an opcode-table word where the next step finds it. -/

namespace Sys2Proof.Machine

/-- One step: one request of the host, served whole (R39, R42, R91, R119). -/
def step (s : State) : Host.Outcome State Fault Refusal := takeRequest s

/-- The state in which the instruction of a table word is the host's next request; a word that names no instruction presents nothing,
and the machine waits (log 1, log 12). -/
def State.withFetchWord (s : State) (nbits w : Nat) : State :=
  match decodeTableWord nbits w with
  | some i => s.present i
  | none => s.withRequests []

end Sys2Proof.Machine
end

