-- ==== Sys2Proof/Safety.lean ====
section
/-! DEFINITION. Safety.lean: the machine's invariant, a host that meets its duties, the transport log's discipline, and states that differ
in check bytes only: the terms the statements use. -/

namespace Sys2Proof.Machine

/-! ## The invariant (R24, R38, R56, R90) -/

/-- A frame of the CFE: one of the eleven opcodes, bare or with an argument (R48, R49, R56). -/
def IsFrame (p : OpcodeParams) (f : List Byte) : Prop :=
  ∃ c, f = frameF2 p c ∨ ∃ arg, f = frameF4 p c arg

/-- A transport call the host may make: a frame, or 18 bytes, at the one address (R7, R56, R90). -/
def CallWhole : TransportCall → Prop
  | .write addr bytes => addr = Config.busAddr7 ∧ IsFrame Config.opcodes bytes
  | .read addr len => addr = Config.busAddr7 ∧ len = Config.respLen

/-- What every step keeps: the frame port holds a whole frame of exactly `frame_len` bytes, and the log whole calls. -/
structure Inv (s : State) : Prop where
  frame : ∀ o, s.cfe = some o → IsFrame Config.opcodes o.frame ∧ o.frameLen = o.frame.length
  log   : ∀ c ∈ s.log, CallWhole c

/-! ## A host that meets its duties (R100) -/

/-- The requests meet the host's duties: selectors from 0 to 10, a frame before a `WR`, 18 bytes in `RX` before a `DEC` (R56, R100, R102).
`hasFrame` and `rxWhole` say whether the frame port holds a value and `RX` holds 18 bytes when the first of them is served. -/
def dutiful : Bool → Bool → List Request → Bool
  | _, _, [] => true
  | _, rxWhole, .cfe sel _ _ :: q => decide (sel.toNat < 11) && dutiful true rxWhole q
  | hasFrame, rxWhole, .mrd :: q => rxWhole && dutiful hasFrame rxWhole q
  | hasFrame, rxWhole, .wr :: q => hasFrame && dutiful hasFrame rxWhole q
  | hasFrame, _, .rd :: q => dutiful hasFrame true q
  | hasFrame, _, .fill bytes :: q => dutiful hasFrame (bytes.length == Config.respLen) q
  | _, rxWhole, .facade _ :: q => dutiful true rxWhole q

/-- The host's pending requests meet its duties from this state on. -/
def State.dutiful (s : State) : Bool :=
  Machine.dutiful s.cfe.isSome (s.rx.length == Config.respLen) s.requests

/-! ## Runs -/

/-- `k` steps, stopping at the first refusal (R42, R103); the same as the host's `Host.Core.run core` (Laws/Step.lean). -/
def run : Nat → State → Result
  | 0, s => .next s
  | k + 1, s => andThen (step s) (run k)

/-! ## The driver facade's use of the transport (R98, R99, R116) -/

/-- The host only asks for operations of the facade (R99). -/
def FacadeOnly (s : State) : Prop := ∀ r ∈ s.requests, ∃ op, r = .facade op

/-- Every read directly follows a ReadMeasurement write, with no call between them (R98, R116). -/
def ReadsFollowRequest (log : List TransportCall) : Prop :=
  ∀ i addr len, log[i]? = some (.read addr len) →
    ∃ j, i = j + 1 ∧ log[j]? = some (.write Config.busAddr7 (frameF2 Config.opcodes .readMeas))

/-! ## States that differ in check bytes only (R81, R82) -/

/-- A byte sequence with the byte at offset 2 of every three replaced by 0: in a response, its six check bytes (R50, R81). -/
def blankChecks : List Byte → List Byte
  | b0 :: b1 :: _ :: rest => b0 :: b1 :: 0 :: blankChecks rest
  | short => short

/-- A request with the check bytes of the bytes it carries blanked. -/
def Request.blankChecks : Request → Request
  | .cfe sel withArg arg => .cfe sel withArg arg
  | .mrd => .mrd
  | .wr => .wr
  | .rd => .rd
  | .fill bytes => .fill (Machine.blankChecks bytes)
  | .facade op => .facade op

/-- A drawn read with its check bytes blanked. -/
def blankDraw (d : ReadDraw) : TransportResult × List Byte :=
  (d.result, blankChecks d.bytes.toList)

/-- Two states that may differ in check bytes only, wherever bytes of a response stand in them. -/
structure SameButChecks (s t : State) : Prop where
  requests   : s.requests.map Request.blankChecks = t.requests.map Request.blankChecks
  cfe        : s.cfe = t.cfe
  mrd        : s.mrd.map MrdOutput.measurement = t.mrd.map MrdOutput.measurement
  rx         : blankChecks s.rx = blankChecks t.rx
  writeDraws : s.writeDraws = t.writeDraws
  readDraws  : s.readDraws.map blankDraw = t.readDraws.map blankDraw
  log        : s.log = t.log
  lastCall   : s.lastCall = t.lastCall
  results    : s.results = t.results

/-- Two ways a step can end that differ in check bytes only. -/
def SameButChecksResult : Result → Result → Prop
  | .next s, .next t => SameButChecks s t
  | .refused r, .refused q => r = q
  | _, _ => False

end Sys2Proof.Machine
end

