-- ==== Sys2Proof/Certificates/Slice0/Obligations.lean ====
section
/-! DEFINITION. Obligations.lean: the statements for the provers, from the spec's numbered rules.
In a statement, `s` is any state, not only one a run reaches. -/

open Sys2Proof Sys2Proof.Machine

/-- `[v[15:8], v[7:0]]`, written out by bits for the statements (R14). -/
def Sys2Proof.Statements.bytesOf (v : Half) : List Byte := [v.extractLsb' 8 8, v.extractLsb' 0 8]

/-- The state after one transport write of `frame` by a host operation that returns `res`, from a state whose frame port holds `frame`
after the operation's encoding: one draw used, one call logged, one result given (R92 to R97). -/
def Sys2Proof.Statements.sent (s : State) (rest : List Request) (frame : List Byte) (res : HostResult) : State :=
  { s with
    requests := rest
    cfe := some { frame := frame, frameLen := frame.length }
    writeDraws := s.writeDraws.tail
    log := s.log ++ [.write Config.busAddr7 frame]
    lastCall := some s.writeResult
    results := s.results ++ [res] }

/-- The result of an operation that ends with a transport write: the write's own outcome (R93). -/
def Sys2Proof.Statements.resultOf : TransportResult → HostResult
  | .ok => .done
  | .err e => .err e

/-- What the next transport read brings when `n` more calls are made before it (R92; log 6). -/
def Sys2Proof.Statements.readDrawAfter (n : Nat) (s : State) : ReadDraw :=
  s.readDraws.headD (Config.freeReadDraw (s.log.length + n))

open Sys2Proof.Statements

/-! ## Byte order, opcodes, selectors -/

/-- R32, R35, R14: splitting and joining are big-endian and lose nothing. -/
def Obligations.BigEndianSplitAndJoinAreInverse : Prop :=
  (∀ v : Half, be16 (hi8 v) (lo8 v) = v) ∧
  (∀ hi lo : Byte, be16Bytes (be16 hi lo) = [hi, lo]) ∧
  (∀ w : FloatBits, be32 (w.extractLsb' 24 8) (w.extractLsb' 16 8) (w.extractLsb' 8 8) (w.extractLsb' 0 8) = w) ∧
  (∀ b0 b1 b2 b3 : Byte,
    (be32 b0 b1 b2 b3).extractLsb' 16 16 = be16 b0 b1 ∧ (be32 b0 b1 b2 b3).extractLsb' 0 16 = be16 b2 b3)

/-- R10: the two opcodes the source gives, whatever the nine parameters are. -/
def Obligations.KnownOpcodesAreFixed : Prop :=
  ∀ p : OpcodeParams, opcode p .start = 0x0010#16 ∧ opcode p .asc = 0x5306#16

/-- R53, R56: the eleven selector codes, and no command for the codes 11 to 15. -/
def Obligations.SelectorsNameTheElevenCommands : Prop :=
  Command.ofSel 0 = some .start ∧ Command.ofSel 1 = some .stop ∧ Command.ofSel 2 = some .setInterval ∧
  Command.ofSel 3 = some .dataReady ∧ Command.ofSel 4 = some .readMeas ∧ Command.ofSel 5 = some .asc ∧
  Command.ofSel 6 = some .frc ∧ Command.ofSel 7 = some .tempOffset ∧ Command.ofSel 8 = some .altitude ∧
  Command.ofSel 9 = some .fwVersion ∧ Command.ofSel 10 = some .softReset ∧
  ∀ sel : BitVec 4, 11 ≤ sel.toNat → Command.ofSel sel = none

/-! ## Encoding -/

/-- R48, R49, R50, R54 (D25's premise): reading an instruction's opcode-table word gives that instruction, with every operand at every value,
for every set of opcodes that differ. -/
def Obligations.DecodingAnEncodedInstructionGivesItBack : Prop :=
  ∀ p : OpcodeParams, p.Distinct → ∀ i : Instr, i.wellFormed → decodeWire p (encode p i) = .ok i

/-- R48, R49, R50: a byte sequence that reads as an instruction is that instruction's word, whatever the opcodes are; and the instruction is well-formed. -/
def Obligations.EncodingADecodedWordGivesItBack : Prop :=
  ∀ (p : OpcodeParams) (bytes : List Byte) (i : Instr),
    decodeWire p bytes = .ok i → encode p i = bytes ∧ i.wellFormed

/-- R48, R57: no other length exists, and a frame of an unmapped opcode is no instruction (R56). -/
def Obligations.OnlyThreeFormatsAreRead : Prop :=
  ∀ (p : OpcodeParams) (bytes : List Byte),
    (∃ i, decodeWire p bytes = .ok i) ↔
      (bytes.length = 18 ∨ ∃ c, (bytes.length = 2 ∨ bytes.length = 4) ∧ bytes.take 2 = bytesOf (opcode p c))

/-- R48: the word of a well-formed instruction has its format's length. -/
def Obligations.WordsHaveTheirFormatsLength : Prop :=
  ∀ (p : OpcodeParams) (i : Instr), i.wellFormed → (encode p i).length = i.format.bytes

/-- R23: the ports request `ENC` or `ENCA` of the selected command by `with_arg`; where it is 0, `arg` has no effect on any output. -/
def Obligations.UnreadArgumentHasNoEffect : Prop :=
  ∀ (sel : BitVec 4) (a b : Half) (s : State),
    evalPorts (.cfe sel false a) s = evalPorts (.cfe sel false b) s

/-- R23, R53: the ports of a decoded CFE request are read back from the instruction, `arg` only where it is read.
THE MODEL'S CHOICE (log 17): where `arg` is not read, the instruction's port values hold 0 there; no rule gives that 0. -/
def Obligations.PortsAreReadBackFromTheInstruction : Prop :=
  ∀ (sel : BitVec 4) (withArg : Bool) (a : Half) (i : Instr),
    decodePorts (.cfe sel withArg a) = .ok i →
      encodePorts i = .cfe sel withArg (if withArg then a else 0)

/-- A sanity check of a few words written out from R49, R50 and R54, in the table's numbering (log 12).
THE MODEL'S CHOICE (log 11): no rule makes the eleven opcodes differ (D25), and 0x0010 and 0x5306 read as START and ASC for every build
because the lookup tries those two first. -/
def Obligations.WordsReadAsTheirInstructions : Prop :=
  decodeTableWord 16 0x0010 = some .encStart ∧
  decodeTableWord 32 0x001003F5 = some (.encaStart 1013) ∧
  decodeTableWord 16 0x5306 = some .encAsc ∧
  decodeTableWord 32 0x53060001 = some (.encaAsc 1) ∧
  decodeTableWord 144 0x000102030405060708090A0B0C0D0E0F1011 =
    some (.dec [0x00, 0x01, 0x02, 0x03, 0x04, 0x05, 0x06, 0x07, 0x08, 0x09, 0x0A, 0x0B, 0x0C, 0x0D, 0x0E, 0x0F, 0x10, 0x11])

/-- R58: what each pseudo-instruction stands for, as port values.
THE MODEL'S CHOICE (log 17): R58 gives an `ENC` no argument; the 0 in the port values of SOFT_RESET_REQ and READ_REQ is the model's. -/
def Obligations.PseudoInstructionsExpand : Prop :=
  encodePorts Pseudo.startMeas.expand = .cfe 0 true 0 ∧
  (∀ p, encodePorts (Pseudo.startMeasP p).expand = .cfe 0 true p) ∧
  encodePorts Pseudo.ascOn.expand = .cfe 5 true 1 ∧
  encodePorts Pseudo.ascOff.expand = .cfe 5 true 0 ∧
  encodePorts Pseudo.softResetReq.expand = .cfe 10 false 0 ∧
  encodePorts Pseudo.readReq.expand = .cfe 4 false 0

/-! ## The Command Frame Encoder -/

/-- R59: an `ENC` request, for every selector and every value of the unread `arg`. -/
def Obligations.EncRequestDrivesTheBareOpcode : Prop :=
  ∀ (s : State) (rest : List Request) (sel : BitVec 4) (a : Half),
    s.requests = .cfe sel false a :: rest →
      (11 ≤ sel.toNat → step s = .refused (.reservedSelector sel)) ∧
      (∀ c, Command.ofSel sel = some c →
        step s = .next { s with
          requests := rest
          cfe := some { frame := bytesOf (opcode Config.opcodes c), frameLen := 2 } })

/-- R60: an `ENCA` request, for every selector and every argument. -/
def Obligations.EncaRequestDrivesOpcodeAndArgument : Prop :=
  ∀ (s : State) (rest : List Request) (sel : BitVec 4) (a : Half),
    s.requests = .cfe sel true a :: rest →
      (11 ≤ sel.toNat → step s = .refused (.reservedSelector sel)) ∧
      (∀ c, Command.ofSel sel = some c →
        step s = .next { s with
          requests := rest
          cfe := some { frame := bytesOf (opcode Config.opcodes c) ++ bytesOf a, frameLen := 4 } })

/-- R59, R64 to R74: each of the eleven `ENC` instructions completes in every state, driving the frame port and changing nothing else. -/
def Obligations.EveryEncCompletes : Prop :=
  ∀ s : State,
    exec .encStart s = .next { s with cfe := some { frame := bytesOf (opcode Config.opcodes .start), frameLen := 2 } } ∧
    exec .encStop s = .next { s with cfe := some { frame := bytesOf (opcode Config.opcodes .stop), frameLen := 2 } } ∧
    exec .encSetInterval s = .next { s with cfe := some { frame := bytesOf (opcode Config.opcodes .setInterval), frameLen := 2 } } ∧
    exec .encDataReady s = .next { s with cfe := some { frame := bytesOf (opcode Config.opcodes .dataReady), frameLen := 2 } } ∧
    exec .encReadMeas s = .next { s with cfe := some { frame := bytesOf (opcode Config.opcodes .readMeas), frameLen := 2 } } ∧
    exec .encAsc s = .next { s with cfe := some { frame := bytesOf (opcode Config.opcodes .asc), frameLen := 2 } } ∧
    exec .encFrc s = .next { s with cfe := some { frame := bytesOf (opcode Config.opcodes .frc), frameLen := 2 } } ∧
    exec .encTempOffset s = .next { s with cfe := some { frame := bytesOf (opcode Config.opcodes .tempOffset), frameLen := 2 } } ∧
    exec .encAltitude s = .next { s with cfe := some { frame := bytesOf (opcode Config.opcodes .altitude), frameLen := 2 } } ∧
    exec .encFwVersion s = .next { s with cfe := some { frame := bytesOf (opcode Config.opcodes .fwVersion), frameLen := 2 } } ∧
    exec .encSoftReset s = .next { s with cfe := some { frame := bytesOf (opcode Config.opcodes .softReset), frameLen := 2 } }

/-- R60, R64 to R74: each of the eleven `ENCA` instructions completes in every state and for every argument. -/
def Obligations.EveryEncaCompletes : Prop :=
  ∀ (s : State) (a : Half),
    exec (.encaStart a) s = .next { s with cfe := some { frame := bytesOf (opcode Config.opcodes .start) ++ bytesOf a, frameLen := 4 } } ∧
    exec (.encaStop a) s = .next { s with cfe := some { frame := bytesOf (opcode Config.opcodes .stop) ++ bytesOf a, frameLen := 4 } } ∧
    exec (.encaSetInterval a) s = .next { s with cfe := some { frame := bytesOf (opcode Config.opcodes .setInterval) ++ bytesOf a, frameLen := 4 } } ∧
    exec (.encaDataReady a) s = .next { s with cfe := some { frame := bytesOf (opcode Config.opcodes .dataReady) ++ bytesOf a, frameLen := 4 } } ∧
    exec (.encaReadMeas a) s = .next { s with cfe := some { frame := bytesOf (opcode Config.opcodes .readMeas) ++ bytesOf a, frameLen := 4 } } ∧
    exec (.encaAsc a) s = .next { s with cfe := some { frame := bytesOf (opcode Config.opcodes .asc) ++ bytesOf a, frameLen := 4 } } ∧
    exec (.encaFrc a) s = .next { s with cfe := some { frame := bytesOf (opcode Config.opcodes .frc) ++ bytesOf a, frameLen := 4 } } ∧
    exec (.encaTempOffset a) s = .next { s with cfe := some { frame := bytesOf (opcode Config.opcodes .tempOffset) ++ bytesOf a, frameLen := 4 } } ∧
    exec (.encaAltitude a) s = .next { s with cfe := some { frame := bytesOf (opcode Config.opcodes .altitude) ++ bytesOf a, frameLen := 4 } } ∧
    exec (.encaFwVersion a) s = .next { s with cfe := some { frame := bytesOf (opcode Config.opcodes .fwVersion) ++ bytesOf a, frameLen := 4 } } ∧
    exec (.encaSoftReset a) s = .next { s with cfe := some { frame := bytesOf (opcode Config.opcodes .softReset) ++ bytesOf a, frameLen := 4 } }

/-- R64, R69: the frames of the two commands whose opcodes the source gives, byte for byte. -/
def Obligations.StartAndAscFramesAreTheSourcesBytes : Prop :=
  ∀ (s : State) (a : Half),
    exec .encStart s = .next { s with cfe := some { frame := [0x00, 0x10], frameLen := 2 } } ∧
    exec (.encaStart a) s = .next { s with cfe := some { frame := [0x00, 0x10, a.extractLsb' 8 8, a.extractLsb' 0 8], frameLen := 4 } } ∧
    exec .encAsc s = .next { s with cfe := some { frame := [0x53, 0x06], frameLen := 2 } } ∧
    exec (.encaAsc a) s = .next { s with cfe := some { frame := [0x53, 0x06, a.extractLsb' 8 8, a.extractLsb' 0 8], frameLen := 4 } }

/-- R48, R49: what a CFE instruction drives is its own opcode-table word, and `frame_len` is its format's length. -/
def Obligations.DrivenFrameIsTheTableWord : Prop :=
  ∀ (i : Instr) (s : State), i.format ≠ .r18 →
    exec i s = .next { s with cfe := some { frame := encode Config.opcodes i, frameLen := i.format.bytes } }

/-- R24, U8: the frame port has exactly `frame_len` bytes, 2 after an `ENC` and 4 after an `ENCA`, index 0 first; a byte at or beyond it holds no value. -/
def Obligations.FramePortHasExactlyFrameLenBytes : Prop :=
  ∀ (s t : State) (c : Command) (a : Half),
    (exec (.enc c) s = .next t →
      (∃ o, t.cfe = some o ∧ o.frameLen = 2 ∧ o.frame.length = o.frameLen ∧ o.frameLen ≤ Config.maxFrame) ∧
      readFrameByte 0 t = .ok ((opcode Config.opcodes c).extractLsb' 8 8) ∧
      readFrameByte 1 t = .ok ((opcode Config.opcodes c).extractLsb' 0 8) ∧
      ∀ k, 2 ≤ k → readFrameByte k t = .error (.outputNoValue .frame)) ∧
    (exec (.enca c a) s = .next t →
      (∃ o, t.cfe = some o ∧ o.frameLen = 4 ∧ o.frame.length = o.frameLen ∧ o.frameLen ≤ Config.maxFrame) ∧
      readFrameByte 0 t = .ok ((opcode Config.opcodes c).extractLsb' 8 8) ∧
      readFrameByte 1 t = .ok ((opcode Config.opcodes c).extractLsb' 0 8) ∧
      readFrameByte 2 t = .ok (a.extractLsb' 8 8) ∧
      readFrameByte 3 t = .ok (a.extractLsb' 0 8) ∧
      ∀ k, 4 ≤ k → readFrameByte k t = .error (.outputNoValue .frame))

/-- 95_test_vectors.md V-L2-E6: `ENC` and `ENCA` of one command agree in bytes 0 and 1. -/
def Obligations.EncIsTheFirstHalfOfEnca : Prop :=
  ∀ (c : Command) (a : Half) (s : State),
    ∃ f g, exec (.enc c) s = .next (s.driveFrame f 2) ∧ exec (.enca c a) s = .next (s.driveFrame g 4) ∧
      f = g.take 2 ∧ f.length = 2 ∧ g.length = 4

/-! ## The Measurement Response Decoder -/

/-- R75: `DEC` on 18 bytes, in every state: the three fields, the six check bytes, and nothing else changed. -/
def Obligations.DecDrivesFieldsAndCheckBytes : Prop :=
  ∀ (s : State) (b0 b1 b2 b3 b4 b5 b6 b7 b8 b9 b10 b11 b12 b13 b14 b15 b16 b17 : Byte),
    exec (.dec [b0, b1, b2, b3, b4, b5, b6, b7, b8, b9, b10, b11, b12, b13, b14, b15, b16, b17]) s =
      .next { s with mrd := some {
        co2 := b0 ++ b1 ++ b3 ++ b4
        temperature := b6 ++ b7 ++ b9 ++ b10
        humidity := b12 ++ b13 ++ b15 ++ b16
        chk := #v[b2, b5, b8, b11, b14, b17] } }

/-- R52, R76, R83: field `k` and the check bytes of response word `k`, by index into `RX`. -/
def Obligations.FieldsAndCheckBytesByIndex : Prop :=
  ∀ (rx : List Byte) (s : State), rx.length = 18 →
    ∃ o : MrdOutput, exec (.dec rx) s = .next { s with mrd := some o } ∧
      ∀ k : Fin 3, ∃ d0 d1 d2 d3 c0 c1 : Byte,
        rx[6 * k.val]? = some d0 ∧ rx[6 * k.val + 1]? = some d1 ∧ rx[6 * k.val + 2]? = some c0 ∧
        rx[6 * k.val + 3]? = some d2 ∧ rx[6 * k.val + 4]? = some d3 ∧ rx[6 * k.val + 5]? = some c1 ∧
        #v[o.co2, o.temperature, o.humidity][k] = be32 d0 d1 d2 d3 ∧
        o.chk[2 * k.val]? = some c0 ∧ o.chk[2 * k.val + 1]? = some c1

/-- R84: `DEC` is total on 18 bytes, and its outputs depend on them alone, not on the state. -/
def Obligations.DecIsTotalAndPure : Prop :=
  ∀ rx : List Byte, rx.length = 18 → ∃ o : MrdOutput, ∀ s : State, exec (.dec rx) s = .next { s with mrd := some o }

/-- R102: `DEC` on a byte sequence of any other length is refused by that length. -/
def Obligations.DecRefusesOtherLengths : Prop :=
  ∀ (rx : List Byte) (s : State), rx.length ≠ 18 → exec (.dec rx) s = .refused (.responseLength rx.length)

/-- R81: two responses that agree outside offsets 2 and 5 of their words give the same three fields. -/
def Obligations.CheckBytesContributeNoBit : Prop :=
  ∀ (rx rx' : List Byte) (s : State), rx.length = 18 → rx'.length = 18 →
    (∀ i, i % 3 ≠ 2 → rx[i]? = rx'[i]?) →
    ∃ o o' : MrdOutput, exec (.dec rx) s = .next { s with mrd := some o } ∧ exec (.dec rx') s = .next { s with mrd := some o' } ∧
      o.co2 = o'.co2 ∧ o.temperature = o'.temperature ∧ o.humidity = o'.humidity

/-- R85 (with R50's layout): any three patterns and any six check bytes, laid out as a response, come back bit for bit. -/
def Obligations.EveryPatternPassesThroughUnchanged : Prop :=
  ∀ (s : State) (w0 w1 w2 : FloatBits) (c0 c1 c2 c3 c4 c5 : Byte),
    exec (.dec (responseOf w0 w1 w2 c0 c1 c2 c3 c4 c5)) s =
      .next { s with mrd := some { co2 := w0, temperature := w1, humidity := w2, chk := #v[c0, c1, c2, c3, c4, c5] } }

/-! ## The two units together -/

/-- The frame of all 23 instructions: a CFE instruction leaves all but the frame port, `DEC` all but the measurement ports, as it was;
byte for byte in the response buffer, and in the frame space for `DEC` (R30, R61, R75). -/
def Obligations.InstructionsChangeOnlyTheirOwnPorts : Prop :=
  ∀ (i : Instr) (s t : State), exec i s = .next t →
    t.requests = s.requests ∧ t.rx = s.rx ∧ t.writeDraws = s.writeDraws ∧ t.readDraws = s.readDraws ∧
    t.log = s.log ∧ t.lastCall = s.lastCall ∧ t.results = s.results ∧
    (∀ k : Nat, t.rx[k]? = s.rx[k]?) ∧
    (i.format ≠ .r18 → t.mrd = s.mrd) ∧
    (i.format = .r18 → t.cfe = s.cfe ∧ ∀ k, readFrameByte k t = readFrameByte k s)

/-- R16, R61, R112: an operation's result is a function of its input ports alone: from any two states, after reset or later,
it is refused alike or drives the same values. -/
def Obligations.ResultsDependOnInputPortsAlone : Prop :=
  ∀ (i : Instr) (s t : State),
    (∀ r, exec i s = .refused r → exec i t = .refused r) ∧
    (∀ s', exec i s = .next s' → ∃ t', exec i t = .next t' ∧
      (i.format ≠ .r18 → t'.cfe = s'.cfe) ∧ (i.format = .r18 → t'.mrd = s'.mrd))

/-- R40: an operation evaluated again on the same inputs gives the same outputs and changes nothing more. -/
def Obligations.OperationsAreIdempotent : Prop :=
  ∀ (i : Instr) (s t : State), exec i s = .next t → exec i t = .next t

/-- R28: either unit can be evaluated first: a CFE instruction and a `DEC` of 18 bytes commute. -/
def Obligations.UnitsCommute : Prop :=
  ∀ (i : Instr) (rx : List Byte) (s : State), i.format ≠ .r18 → rx.length = 18 →
    ∃ s1 s2 t, exec i s = .next s1 ∧ exec (.dec rx) s = .next s2 ∧
      exec (.dec rx) s1 = .next t ∧ exec i s2 = .next t ∧ t.cfe = s1.cfe ∧ t.mrd = s2.mrd

/-- R103, R104: the refusal reasons of the block's own operations: each is refused exactly on its condition, and by its reason. -/
def Obligations.BlockRefusalsAreAClosedList : Prop :=
  (∀ (s : State) (rest : List Request) (sel : BitVec 4) (withArg : Bool) (a : Half) (r : Refusal),
    s.requests = .cfe sel withArg a :: rest →
      (step s = .refused r ↔ 11 ≤ sel.toNat ∧ r = .reservedSelector sel)) ∧
  (∀ (s : State) (rest : List Request) (r : Refusal),
    s.requests = .mrd :: rest →
      (step s = .refused r ↔ s.rx.length ≠ 18 ∧ r = .responseLength s.rx.length))

/-! ## The step -/

/-- The state after reset: no output holds a value, and reading one is refused (R27; U9). The empty buffer and the empty lists are
the model's choice (logs 1, 2, 6, 9, 20). -/
def Obligations.ResetStateHoldsNoOutputValue : Prop :=
  State.reset.cfe = none ∧ State.reset.mrd = none ∧
  (∀ k, readFrameByte k State.reset = .error (.outputNoValue .frame)) ∧
  readMeasurement State.reset = .error (.outputNoValue .measurement) ∧
  State.reset.requests = [] ∧ State.reset.rx = [] ∧ State.reset.log = [] ∧ State.reset.results = [] ∧
  State.reset.lastCall = none ∧ State.reset.writeDraws = [] ∧ State.reset.readDraws = []

/-- A step runs the instruction the ports request: a CFE request by its port values, a `DEC` request on the bytes `RX` holds (R18, R23, R25, R30). -/
def Obligations.AStepRunsThePortsInstruction : Prop :=
  (∀ (s : State) (rest : List Request) (sel : BitVec 4) (withArg : Bool) (a : Half) (i : Instr),
    s.requests = .cfe sel withArg a :: rest → decodePorts (.cfe sel withArg a) = .ok i →
      step s = exec i { s with requests := rest }) ∧
  (∀ (s : State) (rest : List Request),
    s.requests = .mrd :: rest → step s = exec (.dec s.rx) { s with requests := rest })

/-- A step from the state in which a table word is placed runs the instruction the decoder reads from it; the only other change is that
a response's bytes stand in `RX`.
THE MODEL'S CHOICE (logs 1, 12, 21): the block fetches no words (R18); placing one is the model's own device, for one request of the host. -/
def Obligations.AStepRunsThePlacedWord : Prop :=
  ∀ (s : State) (nbits w : Nat) (i : Instr), decodeTableWord nbits w = some i →
    (i.format ≠ .r18 → step (s.withFetchWord nbits w) = exec i s) ∧
    (∀ rx, i = .dec rx → step (s.withFetchWord nbits w) = exec i { s with rx := rx })

/-- The model's choice (log 1): with no request pending a step changes nothing. -/
def Obligations.WithoutARequestTheMachineWaits : Prop :=
  ∀ s : State, s.requests = [] → step s = .next s

/-- R42: requests are served one at a time, in the order the host makes them, and no operation makes or drops one.
THE MODEL'S CHOICE (logs 1, 14): the list of pending requests, and that the rest of it stays pending after a `WR` or `RD` that failed;
no rule says what a host program made of single requests does then. -/
def Obligations.RequestsAreServedInOrder : Prop :=
  ∀ s t : State, step s = .next t → t.requests = s.requests.tail

/-- The invariant at reset. -/
def Obligations.InvariantHoldsAtReset : Prop := Inv State.reset

/-- R24, R56, R90: every step keeps the frame port a whole frame of a mapped opcode of exactly `frame_len` bytes, and the transport log
made of such frames and of 18-byte reads at the one address. -/
def Obligations.EveryStepKeepsTheInvariant : Prop :=
  ∀ s t : State, Inv s → step s = .next t → Inv t

/-- Every way a step can be refused, and when (R103; U9 and log 10 for the third). -/
def Obligations.AStepIsRefusedOnlyThus : Prop :=
  ∀ (s : State) (r : Refusal), step s = .refused r ↔
    ∃ q rest, s.requests = q :: rest ∧
      ((∃ sel withArg a, q = .cfe sel withArg a ∧ 11 ≤ sel.toNat ∧ r = .reservedSelector sel) ∨
       (q = .mrd ∧ s.rx.length ≠ 18 ∧ r = .responseLength s.rx.length) ∨
       (q = .wr ∧ s.cfe = none ∧ r = .outputNoValue .frame))

/-- R100, R101: a host that meets its duties is never stopped: its run of any length, under every transport outcome, answers a next state.
THE MODEL'S CHOICE (logs 1, 7, 14): the run goes on after a failed single call and through steps with nothing pending, and an `RD` that failed
counts as leaving 18 bytes in `RX` too. -/
def Obligations.ADutifulHostIsNeverStopped : Prop :=
  ∀ (k : Nat) (s : State), s.dutiful = true → ∃ t, run k s = .next t

/-! ## The host and its transport -/

/-- `WR frame`, `RD 18` and the host's own filling of `RX`, in full (R29, R58, R89, R90, R92).
THE MODEL'S CHOICE: `RX` holds the drawn bytes after a failed `RD` too (log 7, DESIGN CHOICE); a failed `WR` or `RD` gives no host result and
the later requests stay pending (log 14, DESIGN CHOICE); the host may fill `RX` with a sequence of any length (log 18, DEDUCED). -/
def Obligations.RawTransportCalls : Prop :=
  ∀ (s : State) (rest : List Request),
    (∀ o, s.requests = .wr :: rest → s.cfe = some o →
      step s = .next { s with
        requests := rest, writeDraws := s.writeDraws.tail,
        log := s.log ++ [.write Config.busAddr7 (o.frame.take o.frameLen)], lastCall := some s.writeResult }) ∧
    (s.requests = .rd :: rest →
      step s = .next { s with
        requests := rest, readDraws := s.readDraws.tail, rx := s.readDraw.bytes.toList,
        log := s.log ++ [.read Config.busAddr7 18], lastCall := some s.readDraw.result }) ∧
    (∀ bytes, s.requests = .fill bytes :: rest → step s = .next { s with requests := rest, rx := bytes })

/-- R90: every call a step makes goes to the one address, and whatever the open low bits are, both shifted address bytes carry it in their
upper seven bits. -/
def Obligations.EveryCallUsesTheOneAddress : Prop :=
  (∀ s t : State, step s = .next t → ∃ calls, t.log = s.log ++ calls ∧
    ∀ c ∈ calls, (∃ bytes, c = .write Config.busAddr7 bytes) ∨ (∃ n, c = .read Config.busAddr7 n)) ∧
  (∀ d : Direction, (addressByte d).extractLsb' 1 7 = Config.busAddr7 ∧ (addressByte d).extractLsb' 0 1 = Config.addrRwConvention d)

/-- The transport log only grows, by at most two calls a step; no result is taken back; and `lastCall` is the outcome drawn for the last call
of the step, or stays as it was where the step makes no call (R91, R92, R93, R98).
The draws' form, a list and then a free value by the call's number, is the model's choice (log 6). -/
def Obligations.TheLogOnlyGrows : Prop :=
  ∀ s t : State, step s = .next t →
    ∃ calls given, t.log = s.log ++ calls ∧ calls.length ≤ 2 ∧ t.results = s.results ++ given ∧ given.length ≤ 1 ∧
      (calls = [] → t.lastCall = s.lastCall) ∧
      (∀ addr bytes, calls.getLast? = some (.write addr bytes) → t.lastCall = some s.writeResult) ∧
      (∀ addr len, calls.getLast? = some (.read addr len) →
        t.lastCall = some (readDrawAfter (calls.length - 1) s).result)

/-- R94: `reset()`. -/
def Obligations.ResetWritesSoftResetOnce : Prop :=
  ∀ (s : State) (rest : List Request), s.requests = .facade .reset :: rest →
    step s = .next (sent s rest (bytesOf (opcode Config.opcodes .softReset)) (resultOf s.writeResult))

/-- R95, R96: `start_measuring()` and `start_measuring_with_pressure(p)`. -/
def Obligations.StartMeasuringWritesThePressure : Prop :=
  ∀ (s : State) (rest : List Request),
    (s.requests = .facade .startMeasuring :: rest →
      step s = .next (sent s rest [0x00, 0x10, 0x00, 0x00] (resultOf s.writeResult))) ∧
    (∀ p : Half, s.requests = .facade (.startMeasuringWithPressure p) :: rest →
      step s = .next (sent s rest [0x00, 0x10, p.extractLsb' 8 8, p.extractLsb' 0 8] (resultOf s.writeResult)))

/-- R97: `set_automatic_calibration(enabled)`. -/
def Obligations.SetAutomaticCalibrationWritesTheFlag : Prop :=
  ∀ (s : State) (rest : List Request) (enabled : Bool),
    s.requests = .facade (.setAutomaticCalibration enabled) :: rest →
      step s = .next (sent s rest [0x53, 0x06, 0x00, if enabled then 0x01 else 0x00] (resultOf s.writeResult))

/-- R98: `read()`, for every outcome of its write and of its read and for every 18 bytes read.
THE MODEL'S CHOICE (log 7): after a failed read `RX` holds the drawn bytes; no rule says what it then holds. -/
def Obligations.ReadWritesThenReadsThenDecodes : Prop :=
  ∀ (s : State) (rest : List Request), s.requests = .facade .read :: rest →
    let frame := bytesOf (opcode Config.opcodes .readMeas)
    (∀ e, s.writeResult = .err e → step s = .next (sent s rest frame (.err e))) ∧
    (s.writeResult = .ok →
      let afterWriting : State := { sent s rest frame .done with results := s.results }
      let draw := afterWriting.readDraw
      let afterReading : State := { afterWriting with
        readDraws := s.readDraws.tail, rx := draw.bytes.toList,
        log := s.log ++ [.write Config.busAddr7 frame, .read Config.busAddr7 18], lastCall := some draw.result }
      (∀ e, draw.result = .err e → step s = .next { afterReading with results := s.results ++ [.err e] }) ∧
      (draw.result = .ok →
        let o : MrdOutput := {
          co2 := draw.bytes[0] ++ draw.bytes[1] ++ draw.bytes[3] ++ draw.bytes[4]
          temperature := draw.bytes[6] ++ draw.bytes[7] ++ draw.bytes[9] ++ draw.bytes[10]
          humidity := draw.bytes[12] ++ draw.bytes[13] ++ draw.bytes[15] ++ draw.bytes[16]
          chk := #v[draw.bytes[2], draw.bytes[5], draw.bytes[8], draw.bytes[11], draw.bytes[14], draw.bytes[17]] }
        step s = .next { afterReading with
          mrd := some o
          results := s.results ++ [.measured { co2 := o.co2, temperature := o.temperature, humidity := o.humidity }] }))

/-- R93, R105: whatever a host operation was doing, the first failed call, write or read, is its last, its error is the result unchanged,
and the frame already driven, the MRD's outputs and earlier results stay. -/
def Obligations.AFailedCallEndsTheOperation : Prop :=
  ∀ (s t : State) (rest : List Request) (op : FacadeOp), s.requests = .facade op :: rest → step s = .next t →
    (∀ e, s.writeResult = .err e →
      t.results = s.results ++ [.err e] ∧ t.lastCall = some (.err e) ∧ t.mrd = s.mrd ∧ t.rx = s.rx ∧
      ∃ f, t.log = s.log ++ [.write Config.busAddr7 f] ∧ readFrame t = .ok f) ∧
    (∀ e, op = .read → s.writeResult = .ok → (readDrawAfter 1 s).result = .err e →
      t.results = s.results ++ [.err e] ∧ t.lastCall = some (.err e) ∧ t.mrd = s.mrd ∧
      ∃ f, t.log = s.log ++ [.write Config.busAddr7 f, .read Config.busAddr7 18] ∧ readFrame t = .ok f) ∧
    (∀ e, t.lastCall = some (.err e) → t.results = s.results ++ [.err e] ∧ t.mrd = s.mrd) ∧
    (t.lastCall = some .ok → ∃ r, t.results = s.results ++ [r] ∧ ∀ e, r ≠ .err e)

/-- R55, R99: the facade only writes the frames of four commands, each in the form the source names for it. -/
def Obligations.TheFacadeWritesOnlyItsFourCommands : Prop :=
  ∀ (s t : State) (rest : List Request) (op : FacadeOp), s.requests = .facade op :: rest → step s = .next t →
    ∃ c f calls, t.log = s.log ++ .write Config.busAddr7 f :: calls ∧
      (c = .softReset ∨ c = .start ∨ c = .asc ∨ c = .readMeas) ∧
      ((c.driverForm = some .f2 ∧ f = frameF2 Config.opcodes c) ∨
       (c.driverForm = some .f4 ∧ ∃ a, f = frameF4 Config.opcodes c a)) ∧
      (calls = [] ∨ (c = .readMeas ∧ calls = [.read Config.busAddr7 18]))

/-- R94 to R98: a facade operation does what its sequence of `ENC`/`ENCA`, `WR`, `RD 18` and `DEC` requests does, step by step: the whole
sequence where its last call succeeds, and where a call fails its part up to that call (the encoding and the calls made, R93);
but for the result it returns.
THE MODEL'S CHOICE (logs 13, 14): a facade operation is one step, and single requests give no host result. -/
def Obligations.AFacadeOperationIsItsSequence : Prop :=
  ∀ (s t : State) (rest : List Request) (op : FacadeOp),
    s.requests = .facade op :: rest → step s = .next t →
      (t.lastCall = some .ok →
        run op.sequence.length { s with requests := op.sequence ++ rest } = .next { t with results := s.results }) ∧
      (∀ e, t.lastCall = some (.err e) →
        let made := 1 + (t.log.length - s.log.length)
        run made { s with requests := op.sequence.take made ++ rest } = .next { t with results := s.results })

/-- R98, R116: under a host that only uses the facade, in a run of any length, every 18-byte read directly follows a ReadMeasurement write. -/
def Obligations.EveryReadFollowsItsRequest : Prop :=
  ∀ (k : Nat) (s t : State), FacadeOnly s → ReadsFollowRequest s.log → run k s = .next t →
    FacadeOnly t ∧ ReadsFollowRequest t.log

/-- R81, R82, R88: check bytes are never observed: two runs of any length from states that differ in check bytes only stop alike or end in
states that differ in check bytes only; so their frames, logs, fields and results agree.
(The free draws of R92 are taken at the same call of both runs: log 6.) -/
def Obligations.CheckBytesNeverReachAFieldOrAResult : Prop :=
  ∀ (k : Nat) (s t : State), SameButChecks s t → SameButChecksResult (run k s) (run k t)

/-! ## Added after the review of the statements -/

/-- R49, R50, in the table's numbering (log 12): `W2 = opcode`, `W4 = opcode || arg` and every 144-bit `V` read as `ENC`, `ENCA` and `DEC` of
exactly those bits, for every command, every argument and every set of opcodes that differ (D25's premise).
THE MODEL'S CHOICE: for the block's own opcodes, not known to differ, the words of START and ASC read so by the lookup's order (log 11);
and a word of any other number of bits names no instruction (log 12). -/
def Obligations.TableWordsReadByTheirBitNumbers : Prop :=
  (∀ p : OpcodeParams, p.Distinct → ∀ (c : Command) (a : Half),
    readTableWord p 16 (opcode p c).toNat = some (.enc c) ∧
    readTableWord p 32 ((opcode p c ++ a : BitVec 32).toNat) = some (.enca c a)) ∧
  (∀ (p : OpcodeParams) (V : BitVec 144),
    readTableWord p 144 V.toNat = some (.dec ((List.range 18).map fun i => V.extractLsb' (136 - 8 * i) 8))) ∧
  (∀ a : Half,
    decodeTableWord 32 ((0x0010#16 ++ a : BitVec 32).toNat) = some (.encaStart a) ∧
    decodeTableWord 32 ((0x5306#16 ++ a : BitVec 32).toNat) = some (.encaAsc a)) ∧
  (∀ (p : OpcodeParams) (nbits w : Nat), nbits ≠ 16 → nbits ≠ 32 → nbits ≠ 144 → readTableWord p nbits w = none)

/-- R100, R101: the step behind ADutifulHostIsNeverStopped: a host that meets its duties is served, and still meets them after the step.
THE MODEL'S CHOICE (logs 1, 7, 14): a step with nothing pending changes nothing, an `RD` that failed counts as leaving 18 bytes in `RX` too,
and the requests after a failed single call stay pending. -/
def Obligations.AServedHostStaysDutiful : Prop :=
  ∀ s : State, s.dutiful = true → ∃ t, step s = .next t ∧ t.dutiful = true
end

