-- ==== Sys2Proof/Laws/Encoding.lean ====
section
/-! SUPPORT. Encoding.lean: instructions against operations, selectors, and what each reader of an instruction can answer. -/

namespace Sys2Proof

/-- `be16` bit by bit (R14). -/
theorem getLsbD_be16 (hi lo : Byte) (i : Nat) :
    (be16 hi lo).getLsbD i = if i < 8 then lo.getLsbD i else hi.getLsbD (i - 8) := BitVec.getLsbD_append

/-- `be32` bit by bit (R14). -/
theorem getLsbD_be32 (b0 b1 b2 b3 : Byte) (i : Nat) :
    (be32 b0 b1 b2 b3).getLsbD i =
      if i < 8 then b3.getLsbD i else if i < 16 then b2.getLsbD (i - 8)
      else if i < 24 then b1.getLsbD (i - 16) else b0.getLsbD (i - 24) := by
  have h : (be32 b0 b1 b2 b3).getLsbD i =
      if i < 8 then b3.getLsbD i else if i - 8 < 8 then b2.getLsbD (i - 8)
      else if i - 8 - 8 < 8 then b1.getLsbD (i - 8 - 8) else b0.getLsbD (i - 8 - 8 - 8) := by
    unfold be32
    rw [show (b0 ++ b1 ++ b2 ++ b3).getLsbD i = _ from BitVec.getLsbD_append,
      show (b0 ++ b1 ++ b2).getLsbD (i - 8) = _ from BitVec.getLsbD_append,
      show (b0 ++ b1).getLsbD (i - 8 - 8) = _ from BitVec.getLsbD_append]
  rw [h]
  grind

@[simp] theorem bigEndianBytes_length (n w : Nat) : (bigEndianBytes n w).length = n := by
  induction n with
  | zero => rfl
  | succ n ih => simp [bigEndianBytes, ih]

/-- A bit vector's byte at bit `i`, as a byte of the number it stands for: the form `bigEndianBytes` gives. -/
theorem extractLsb'_eq_ofNat {n : Nat} (v : BitVec n) (i : Nat) :
    v.extractLsb' i 8 = BitVec.ofNat 8 (v.toNat / 2 ^ i) := by
  apply BitVec.eq_of_toNat_eq
  simp [Nat.shiftRight_eq_div_pow]

@[simp] theorem Instr.operation_instr (i : Instr) : i.operation.instr = i := by cases i <;> rfl

@[simp] theorem Operation.instr_operation (o : Operation) : o.instr.operation = o := by
  rcases o with c | ⟨c, a⟩ | rx
  · cases c <;> rfl
  · cases c <;> rfl
  · rfl

@[simp] theorem Instr.operation_enc (c : Command) : (Instr.enc c).operation = .enc c := Operation.instr_operation _

@[simp] theorem Instr.operation_enca (c : Command) (a : Half) : (Instr.enca c a).operation = .enca c a :=
  Operation.instr_operation _

/-- Every instruction is an `ENC`, an `ENCA` or a `DEC` (R58, R110). -/
theorem Instr.eq_enc_or_enca_or_dec (i : Instr) :
    (∃ c, i = .enc c) ∨ (∃ c a, i = .enca c a) ∨ (∃ rx, i = .dec rx) := by
  rw [← i.operation_instr]
  rcases i.operation with c | ⟨c, a⟩ | rx
  · exact .inl ⟨c, rfl⟩
  · exact .inr (.inl ⟨c, a, rfl⟩)
  · exact .inr (.inr ⟨rx, rfl⟩)

@[simp] theorem Instr.wellFormed_enc (c : Command) : (Instr.enc c).wellFormed = true := by cases c <;> rfl

@[simp] theorem Instr.wellFormed_enca (c : Command) (a : Half) : (Instr.enca c a).wellFormed = true := by
  cases c <;> rfl

/-- The selector map is one to one on the commands (R53). -/
@[simp] theorem Command.ofSel_sel (c : Command) : Command.ofSel c.sel = some c := by cases c <;> rfl

/-- A code names a command exactly when it is below 11, and the command is the one whose code it is (R53, R56). -/
theorem Command.ofSel_cases (sel : BitVec 4) :
    (sel.toNat < 11 ∧ ∃ c, Command.ofSel sel = some c ∧ c.sel = sel) ∨
    (11 ≤ sel.toNat ∧ Command.ofSel sel = none) := by
  revert sel
  decide

/-- A command found by the reverse lookup has the opcode that was looked up. -/
theorem opcode_of_commandOf {p : OpcodeParams} {op : Half} {c : Command} (h : commandOf p op = some c) :
    opcode p c = op := by
  simpa using List.find?_some h

/-- Every command is tried by the reverse lookup. -/
theorem mem_lookupOrder (c : Command) : c ∈ lookupOrder := by cases c <;> decide

/-- What reading the CFE's ports can answer (R23, R53, R56). -/
theorem decodePorts_cfe (sel : BitVec 4) (withArg : Bool) (a : Half) :
    (∃ c, c.sel = sel ∧ decodePorts (.cfe sel withArg a) = .ok (if withArg then .enca c a else .enc c)) ∨
    (11 ≤ sel.toNat ∧ decodePorts (.cfe sel withArg a) = .error (.reservedSelector sel)) := by
  rcases Command.ofSel_cases sel with ⟨-, c, hc, hs⟩ | ⟨h, hc⟩
  · exact .inl ⟨c, hs, by simp [decodePorts, hc]⟩
  · exact .inr ⟨h, by simp [decodePorts, hc]⟩

/-- What reading a table word can answer: an instruction, exactly where the word is whole bytes that read as it (R48; log 12). -/
theorem readTableWord_eq_some {p : OpcodeParams} {nbits w : Nat} {i : Instr} :
    readTableWord p nbits w = some i ↔
      nbits % 8 = 0 ∧ decodeWire p (bigEndianBytes (nbits / 8) w) = .ok i := by
  unfold readTableWord
  by_cases h : nbits % 8 = 0
  · cases hd : decodeWire p (bigEndianBytes (nbits / 8) w) <;> simp [h]
  · simp [h]

/-- Bytes that read as an instruction are 2, 4 or 18 (R48). -/
theorem length_of_decodeWire {p : OpcodeParams} {bytes : List Byte} {i : Instr} (h : decodeWire p bytes = .ok i) :
    bytes.length = 2 ∨ bytes.length = 4 ∨ bytes.length = 18 := by
  unfold decodeWire at h
  split at h
  · exact .inl rfl
  · exact .inr (.inl rfl)
  · split at h
    · rename_i hl
      exact .inr (.inr (by simpa [Config.respLen] using hl))
    · cases h

end Sys2Proof
end

