-- ==== Sys2Proof/Laws/State.lean ====
section
/-! SUPPORT. State.lean: one lemma per field per update of the state, each true by definition: no proof need unfold an update. -/

namespace Sys2Proof.Machine

@[simp] theorem State.withRequests_requests (q : List Request) (s : State) : (s.withRequests q).requests = q := rfl
@[simp] theorem State.withRequests_cfe (q : List Request) (s : State) : (s.withRequests q).cfe = s.cfe := rfl
@[simp] theorem State.withRequests_mrd (q : List Request) (s : State) : (s.withRequests q).mrd = s.mrd := rfl
@[simp] theorem State.withRequests_rx (q : List Request) (s : State) : (s.withRequests q).rx = s.rx := rfl
@[simp] theorem State.withRequests_writeDraws (q : List Request) (s : State) : (s.withRequests q).writeDraws = s.writeDraws := rfl
@[simp] theorem State.withRequests_readDraws (q : List Request) (s : State) : (s.withRequests q).readDraws = s.readDraws := rfl
@[simp] theorem State.withRequests_log (q : List Request) (s : State) : (s.withRequests q).log = s.log := rfl
@[simp] theorem State.withRequests_lastCall (q : List Request) (s : State) : (s.withRequests q).lastCall = s.lastCall := rfl
@[simp] theorem State.withRequests_results (q : List Request) (s : State) : (s.withRequests q).results = s.results := rfl

@[simp] theorem State.driveFrame_requests (f : List Byte) (n : Nat) (s : State) : (s.driveFrame f n).requests = s.requests := rfl
@[simp] theorem State.driveFrame_cfe (f : List Byte) (n : Nat) (s : State) : (s.driveFrame f n).cfe = some { frame := f, frameLen := n } := rfl
@[simp] theorem State.driveFrame_mrd (f : List Byte) (n : Nat) (s : State) : (s.driveFrame f n).mrd = s.mrd := rfl
@[simp] theorem State.driveFrame_rx (f : List Byte) (n : Nat) (s : State) : (s.driveFrame f n).rx = s.rx := rfl
@[simp] theorem State.driveFrame_writeDraws (f : List Byte) (n : Nat) (s : State) : (s.driveFrame f n).writeDraws = s.writeDraws := rfl
@[simp] theorem State.driveFrame_readDraws (f : List Byte) (n : Nat) (s : State) : (s.driveFrame f n).readDraws = s.readDraws := rfl
@[simp] theorem State.driveFrame_log (f : List Byte) (n : Nat) (s : State) : (s.driveFrame f n).log = s.log := rfl
@[simp] theorem State.driveFrame_lastCall (f : List Byte) (n : Nat) (s : State) : (s.driveFrame f n).lastCall = s.lastCall := rfl
@[simp] theorem State.driveFrame_results (f : List Byte) (n : Nat) (s : State) : (s.driveFrame f n).results = s.results := rfl

@[simp] theorem State.driveMeasurement_requests (o : MrdOutput) (s : State) : (s.driveMeasurement o).requests = s.requests := rfl
@[simp] theorem State.driveMeasurement_cfe (o : MrdOutput) (s : State) : (s.driveMeasurement o).cfe = s.cfe := rfl
@[simp] theorem State.driveMeasurement_mrd (o : MrdOutput) (s : State) : (s.driveMeasurement o).mrd = some o := rfl
@[simp] theorem State.driveMeasurement_rx (o : MrdOutput) (s : State) : (s.driveMeasurement o).rx = s.rx := rfl
@[simp] theorem State.driveMeasurement_writeDraws (o : MrdOutput) (s : State) : (s.driveMeasurement o).writeDraws = s.writeDraws := rfl
@[simp] theorem State.driveMeasurement_readDraws (o : MrdOutput) (s : State) : (s.driveMeasurement o).readDraws = s.readDraws := rfl
@[simp] theorem State.driveMeasurement_log (o : MrdOutput) (s : State) : (s.driveMeasurement o).log = s.log := rfl
@[simp] theorem State.driveMeasurement_lastCall (o : MrdOutput) (s : State) : (s.driveMeasurement o).lastCall = s.lastCall := rfl
@[simp] theorem State.driveMeasurement_results (o : MrdOutput) (s : State) : (s.driveMeasurement o).results = s.results := rfl

@[simp] theorem State.fillRx_requests (bytes : List Byte) (s : State) : (s.fillRx bytes).requests = s.requests := rfl
@[simp] theorem State.fillRx_cfe (bytes : List Byte) (s : State) : (s.fillRx bytes).cfe = s.cfe := rfl
@[simp] theorem State.fillRx_mrd (bytes : List Byte) (s : State) : (s.fillRx bytes).mrd = s.mrd := rfl
@[simp] theorem State.fillRx_rx (bytes : List Byte) (s : State) : (s.fillRx bytes).rx = bytes := rfl
@[simp] theorem State.fillRx_writeDraws (bytes : List Byte) (s : State) : (s.fillRx bytes).writeDraws = s.writeDraws := rfl
@[simp] theorem State.fillRx_readDraws (bytes : List Byte) (s : State) : (s.fillRx bytes).readDraws = s.readDraws := rfl
@[simp] theorem State.fillRx_log (bytes : List Byte) (s : State) : (s.fillRx bytes).log = s.log := rfl
@[simp] theorem State.fillRx_lastCall (bytes : List Byte) (s : State) : (s.fillRx bytes).lastCall = s.lastCall := rfl
@[simp] theorem State.fillRx_results (bytes : List Byte) (s : State) : (s.fillRx bytes).results = s.results := rfl

@[simp] theorem State.logCall_requests (c : TransportCall) (r : TransportResult) (s : State) : (s.logCall c r).requests = s.requests := rfl
@[simp] theorem State.logCall_cfe (c : TransportCall) (r : TransportResult) (s : State) : (s.logCall c r).cfe = s.cfe := rfl
@[simp] theorem State.logCall_mrd (c : TransportCall) (r : TransportResult) (s : State) : (s.logCall c r).mrd = s.mrd := rfl
@[simp] theorem State.logCall_rx (c : TransportCall) (r : TransportResult) (s : State) : (s.logCall c r).rx = s.rx := rfl
@[simp] theorem State.logCall_writeDraws (c : TransportCall) (r : TransportResult) (s : State) : (s.logCall c r).writeDraws = s.writeDraws := rfl
@[simp] theorem State.logCall_readDraws (c : TransportCall) (r : TransportResult) (s : State) : (s.logCall c r).readDraws = s.readDraws := rfl
@[simp] theorem State.logCall_log (c : TransportCall) (r : TransportResult) (s : State) : (s.logCall c r).log = s.log ++ [c] := rfl
@[simp] theorem State.logCall_lastCall (c : TransportCall) (r : TransportResult) (s : State) : (s.logCall c r).lastCall = some r := rfl
@[simp] theorem State.logCall_results (c : TransportCall) (r : TransportResult) (s : State) : (s.logCall c r).results = s.results := rfl

@[simp] theorem State.giveResult_requests (r : HostResult) (s : State) : (s.giveResult r).requests = s.requests := rfl
@[simp] theorem State.giveResult_cfe (r : HostResult) (s : State) : (s.giveResult r).cfe = s.cfe := rfl
@[simp] theorem State.giveResult_mrd (r : HostResult) (s : State) : (s.giveResult r).mrd = s.mrd := rfl
@[simp] theorem State.giveResult_rx (r : HostResult) (s : State) : (s.giveResult r).rx = s.rx := rfl
@[simp] theorem State.giveResult_writeDraws (r : HostResult) (s : State) : (s.giveResult r).writeDraws = s.writeDraws := rfl
@[simp] theorem State.giveResult_readDraws (r : HostResult) (s : State) : (s.giveResult r).readDraws = s.readDraws := rfl
@[simp] theorem State.giveResult_log (r : HostResult) (s : State) : (s.giveResult r).log = s.log := rfl
@[simp] theorem State.giveResult_lastCall (r : HostResult) (s : State) : (s.giveResult r).lastCall = s.lastCall := rfl
@[simp] theorem State.giveResult_results (r : HostResult) (s : State) : (s.giveResult r).results = s.results ++ [r] := rfl

@[simp] theorem State.afterWrite_requests (bytes : List Byte) (s : State) : (s.afterWrite bytes).requests = s.requests := rfl
@[simp] theorem State.afterWrite_cfe (bytes : List Byte) (s : State) : (s.afterWrite bytes).cfe = s.cfe := rfl
@[simp] theorem State.afterWrite_mrd (bytes : List Byte) (s : State) : (s.afterWrite bytes).mrd = s.mrd := rfl
@[simp] theorem State.afterWrite_rx (bytes : List Byte) (s : State) : (s.afterWrite bytes).rx = s.rx := rfl
@[simp] theorem State.afterWrite_writeDraws (bytes : List Byte) (s : State) : (s.afterWrite bytes).writeDraws = s.writeDraws.tail := rfl
@[simp] theorem State.afterWrite_readDraws (bytes : List Byte) (s : State) : (s.afterWrite bytes).readDraws = s.readDraws := rfl
@[simp] theorem State.afterWrite_log (bytes : List Byte) (s : State) : (s.afterWrite bytes).log = s.log ++ [.write Config.busAddr7 bytes] := rfl
@[simp] theorem State.afterWrite_lastCall (bytes : List Byte) (s : State) : (s.afterWrite bytes).lastCall = some s.writeResult := rfl
@[simp] theorem State.afterWrite_results (bytes : List Byte) (s : State) : (s.afterWrite bytes).results = s.results := rfl

@[simp] theorem State.afterRead_requests (s : State) : (s.afterRead).requests = s.requests := rfl
@[simp] theorem State.afterRead_cfe (s : State) : (s.afterRead).cfe = s.cfe := rfl
@[simp] theorem State.afterRead_mrd (s : State) : (s.afterRead).mrd = s.mrd := rfl
@[simp] theorem State.afterRead_rx (s : State) : (s.afterRead).rx = s.readDraw.bytes.toList := rfl
@[simp] theorem State.afterRead_writeDraws (s : State) : (s.afterRead).writeDraws = s.writeDraws := rfl
@[simp] theorem State.afterRead_readDraws (s : State) : (s.afterRead).readDraws = s.readDraws.tail := rfl
@[simp] theorem State.afterRead_log (s : State) : (s.afterRead).log = s.log ++ [.read Config.busAddr7 Config.respLen] := rfl
@[simp] theorem State.afterRead_lastCall (s : State) : (s.afterRead).lastCall = some s.readDraw.result := rfl
@[simp] theorem State.afterRead_results (s : State) : (s.afterRead).results = s.results := rfl

end Sys2Proof.Machine
end

