-- ==== Sys2Proof/Laws/Ops.lean ====
section
/-! SUPPORT. Ops.lean: what each shared operation can do, said once: the provers cite these and unfold no operation. -/

namespace Sys2Proof.Machine

@[simp] theorem andThen_next (s : State) (k : State → Result) : andThen (.next s) k = k s := rfl

@[simp] theorem andThen_refused (r : Refusal) (k : State → Result) : andThen (.refused r) k = .refused r := rfl

/-! ## Reading the ports -/

@[simp] theorem readFrame_driveFrame (f : List Byte) (n : Nat) (s : State) :
    readFrame (s.driveFrame f n) = .ok (f.take n) := rfl

theorem readFrame_of_some {s : State} {o : CfeOutput} (h : s.cfe = some o) :
    readFrame s = .ok (o.frame.take o.frameLen) := by simp [readFrame, h]

theorem readFrame_of_none {s : State} (h : s.cfe = none) : readFrame s = .error (.outputNoValue .frame) := by
  simp [readFrame, h]

@[simp] theorem readMeasurement_driveMeasurement (o : MrdOutput) (s : State) :
    readMeasurement (s.driveMeasurement o) = .ok o := rfl

/-! ## The block's operations -/

/-- A response decodes exactly when it is 18 bytes long (R84, R102). -/
theorem decodeResponse_cases (rx : List Byte) :
    (rx.length = 18 ∧ ∃ o, decodeResponse rx = some o) ∨ (rx.length ≠ 18 ∧ decodeResponse rx = none) := by
  unfold decodeResponse
  split
  · exact .inl ⟨rfl, _, rfl⟩
  · rename_i hne
    refine .inr ⟨fun h => ?_, rfl⟩
    match rx, h with
    | [a0, a1, a2, a3, a4, a5, b0, b1, b2, b3, b4, b5, c0, c1, c2, c3, c4, c5], _ =>
      exact hne a0 a1 a2 a3 a4 a5 b0 b1 b2 b3 b4 b5 c0 c1 c2 c3 c4 c5 rfl

/-- `DEC` drives the measurement ports or is refused by the length (R84, R102). -/
theorem execDec_cases (rx : List Byte) (s : State) :
    (rx.length = 18 ∧ ∃ o, decodeResponse rx = some o ∧ exec (.dec rx) s = .next (s.driveMeasurement o)) ∨
    (rx.length ≠ 18 ∧ exec (.dec rx) s = .refused (.responseLength rx.length)) := by
  rcases decodeResponse_cases rx with ⟨hl, o, ho⟩ | ⟨hl, ho⟩
  · exact .inl ⟨hl, o, ho, by simp [exec, execDec, decOp, ho]⟩
  · exact .inr ⟨hl, by simp [exec, execDec, decOp, ho]⟩

/-- Every `ENC` drives its command's bare opcode (R59). -/
@[simp] theorem exec_enc (c : Command) (s : State) :
    exec (.enc c) s = .next (s.driveFrame (frameF2 Config.opcodes c) 2) := by cases c <;> rfl

/-- Every `ENCA` drives its command's opcode and the argument (R60). -/
@[simp] theorem exec_enca (c : Command) (a : Half) (s : State) :
    exec (.enca c a) s = .next (s.driveFrame (frameF4 Config.opcodes c a) 4) := by cases c <;> rfl

@[simp] theorem frameF2_length (p : OpcodeParams) (c : Command) : (frameF2 p c).length = 2 := rfl

@[simp] theorem frameF4_length (p : OpcodeParams) (c : Command) (a : Half) : (frameF4 p c a).length = 4 := rfl

@[simp] theorem frameF2_take (p : OpcodeParams) (c : Command) : (frameF2 p c).take 2 = frameF2 p c := rfl

@[simp] theorem frameF4_take (p : OpcodeParams) (c : Command) (a : Half) : (frameF4 p c a).take 4 = frameF4 p c a := rfl

/-! ## The transport calls -/

@[simp] theorem wrThen_driveFrame (f : List Byte) (n : Nat) (s : State) (k : TransportResult → State → Result) :
    wrThen (s.driveFrame f n) k = k s.writeResult ((s.driveFrame f n).afterWrite (f.take n)) := rfl

/-- `WR frame` needs a value at the frame port (R100, U9). -/
theorem wrThen_cases (s : State) (k : TransportResult → State → Result) :
    (∃ o, s.cfe = some o ∧ wrThen s k = k s.writeResult (s.afterWrite (o.frame.take o.frameLen))) ∨
    (s.cfe = none ∧ wrThen s k = .refused (.outputNoValue .frame)) := by
  cases h : s.cfe with
  | none => exact .inr ⟨rfl, by simp [wrThen, readFrame_of_none h]⟩
  | some o => exact .inl ⟨o, rfl, by simp [wrThen, readFrame_of_some h]⟩

@[simp] theorem State.driveFrame_writeResult (f : List Byte) (n : Nat) (s : State) :
    (s.driveFrame f n).writeResult = s.writeResult := rfl

@[simp] theorem State.withRequests_writeResult (q : List Request) (s : State) :
    (s.withRequests q).writeResult = s.writeResult := rfl

@[simp] theorem State.withRequests_readDraw (q : List Request) (s : State) :
    (s.withRequests q).readDraw = s.readDraw := rfl

/-- A read always leaves 18 bytes in `RX` (R92). -/
@[simp] theorem State.afterRead_rx_length (s : State) : s.afterRead.rx.length = 18 := by simp

/-! ## The facade -/

/-- An `ENC` pseudo-instruction's frame, or an `ENCA` one's. -/
def Pseudo.frame (p : OpcodeParams) : Pseudo → List Byte
  | .startMeas => frameF4 p .start 0
  | .startMeasP a => frameF4 p .start a
  | .ascOn => frameF4 p .asc 1
  | .ascOff => frameF4 p .asc 0
  | .softResetReq => frameF2 p .softReset
  | .readReq => frameF2 p .readMeas

/-- Evaluating a pseudo-instruction drives its frame. -/
theorem exec_expand (c : Pseudo) (s : State) :
    exec c.expand s = .next (s.driveFrame (Pseudo.frame Config.opcodes c) (Pseudo.frame Config.opcodes c).length) := by
  cases c <;> rfl

/-- Everything an operation with one write does (R93 to R97). -/
theorem sendCommand_next (c : Pseudo) (s : State) :
    let f := Pseudo.frame Config.opcodes c
    sendCommand c s = .next (((s.driveFrame f f.length).afterWrite f).giveResult (.ofWrite s.writeResult)) := by
  simp [sendCommand, exec_expand]

/-- `DEC` of 18 bytes already in `RX`, and its three fields as the result (R98). -/
theorem decodeAndReturn_next {s : State} (h : s.rx.length = 18) :
    ∃ o, decodeResponse s.rx = some o ∧
      decodeAndReturn s = .next ((s.driveMeasurement o).giveResult (.measured o.measurement)) := by
  rcases execDec_cases s.rx s with ⟨-, o, ho, he⟩ | ⟨hl, -⟩
  · exact ⟨o, ho, by simp [decodeAndReturn, he]⟩
  · exact absurd h hl

/-- Everything `read()` does (R98), by the outcome of its two calls. -/
theorem facadeRead_cases (s : State) :
    let f := frameF2 Config.opcodes .readMeas
    let s1 := (s.driveFrame f 2).afterWrite f
    (∃ e, s.writeResult = .err e ∧ facadeRead s = .next (s1.giveResult (.err e))) ∨
    (∃ e, s.writeResult = .ok ∧ s1.readDraw.result = .err e ∧
      facadeRead s = .next (s1.afterRead.giveResult (.err e))) ∨
    (∃ o, s.writeResult = .ok ∧ s1.readDraw.result = .ok ∧ decodeResponse s1.afterRead.rx = some o ∧
      facadeRead s = .next ((s1.afterRead.driveMeasurement o).giveResult (.measured o.measurement))) := by
  intro f s1
  have hs : facadeRead s = (match s.writeResult with
      | .err e => .next (s1.giveResult (.err e))
      | .ok => rdThen s1 fun r2 s3 =>
        match r2 with
        | .err e => .next (s3.giveResult (.err e))
        | .ok => decodeAndReturn s3) := rfl
  cases hw : s.writeResult with
  | err e => exact .inl ⟨e, rfl, by rw [hs, hw]⟩
  | ok =>
    cases hr : s1.readDraw.result with
    | err e => exact .inr (.inl ⟨e, rfl, rfl, by rw [hs, hw]; simp [rdThen, hr]⟩)
    | ok =>
      obtain ⟨o, ho, hd⟩ := decodeAndReturn_next s1.afterRead_rx_length
      exact .inr (.inr ⟨o, rfl, rfl, ho, by rw [hs, hw]; simp [rdThen, hr, hd]⟩)

end Sys2Proof.Machine
end

