-- ==== Sys2Proof/Laws/PerInstr.lean ====
section
/-! SUPPORT. PerInstr.lean: statements for all instructions, one lemma a constructor. -/

namespace Sys2Proof.Laws.PortRoundTrip

/-- The port values that request an instruction read as that instruction (R23, R25, R53). -/
def Statement (i : Instr) : Prop := decodePorts (encodePorts i) = .ok i

theorem encStart : Statement .encStart := rfl
theorem encaStart (arg : Half) : Statement (.encaStart arg) := rfl
theorem encStop : Statement .encStop := rfl
theorem encaStop (arg : Half) : Statement (.encaStop arg) := rfl
theorem encSetInterval : Statement .encSetInterval := rfl
theorem encaSetInterval (arg : Half) : Statement (.encaSetInterval arg) := rfl
theorem encDataReady : Statement .encDataReady := rfl
theorem encaDataReady (arg : Half) : Statement (.encaDataReady arg) := rfl
theorem encReadMeas : Statement .encReadMeas := rfl
theorem encaReadMeas (arg : Half) : Statement (.encaReadMeas arg) := rfl
theorem encAsc : Statement .encAsc := rfl
theorem encaAsc (arg : Half) : Statement (.encaAsc arg) := rfl
theorem encFrc : Statement .encFrc := rfl
theorem encaFrc (arg : Half) : Statement (.encaFrc arg) := rfl
theorem encTempOffset : Statement .encTempOffset := rfl
theorem encaTempOffset (arg : Half) : Statement (.encaTempOffset arg) := rfl
theorem encAltitude : Statement .encAltitude := rfl
theorem encaAltitude (arg : Half) : Statement (.encaAltitude arg) := rfl
theorem encFwVersion : Statement .encFwVersion := rfl
theorem encaFwVersion (arg : Half) : Statement (.encaFwVersion arg) := rfl
theorem encSoftReset : Statement .encSoftReset := rfl
theorem encaSoftReset (arg : Half) : Statement (.encaSoftReset arg) := rfl
theorem dec (rx : List Byte) : Statement (.dec rx) := rfl

end Sys2Proof.Laws.PortRoundTrip
end

