-- ==== Sys2Proof/Laws/Step.lean ====
section
/-! SUPPORT. Step.lean: everything a step can do, request by request; small lemmas about the terms of Safety.lean. -/

namespace Sys2Proof.Machine

theorem step_of_nil {s : State} (h : s.requests = []) : step s = .next s := by
  simp [step, takeRequest, h]

theorem step_of_cons {s : State} {r : Request} {rest : List Request} (h : s.requests = r :: rest) :
    step s = serve r (s.withRequests rest) := by
  simp [step, takeRequest, h]

@[simp] theorem run_zero (s : State) : run 0 s = .next s := rfl

theorem run_succ (k : Nat) (s : State) : run (k + 1) s = andThen (step s) (run k) := rfl

/-- A run of the model is the host's run of its machine. -/
theorem core_run_eq (k : Nat) (s : State) : Host.Core.run Sys2Proof.core k s = run k s := by
  induction k generalizing s with
  | zero => rfl
  | succ k ih =>
    rw [run_succ]
    simp only [Host.Core.run, Sys2Proof.core] at ih ⊢
    cases step s with
    | next t => exact ih t
    | fault f => rfl
    | refused r => rfl

/-- Once a request is served, the run goes on from there. -/
theorem run_of_cons {s t : State} {r : Request} {rest : List Request} (k : Nat) (hq : s.requests = r :: rest)
    (h : serve r (s.withRequests rest) = .next t) : run (k + 1) s = run k t := by
  rw [run_succ, step_of_cons hq, h, andThen_next]

/-- A CFE request drives a whole frame of a command, or is refused by its selector (R56, R59, R60). -/
theorem serve_cfe_cases (sel : BitVec 4) (withArg : Bool) (a : Half) (s : State) :
    (∃ c, c.sel = sel ∧ withArg = false ∧
      serve (.cfe sel withArg a) s = .next (s.driveFrame (frameF2 Config.opcodes c) 2)) ∨
    (∃ c, c.sel = sel ∧ withArg = true ∧
      serve (.cfe sel withArg a) s = .next (s.driveFrame (frameF4 Config.opcodes c a) 4)) ∨
    (11 ≤ sel.toNat ∧ serve (.cfe sel withArg a) s = .refused (.reservedSelector sel)) := by
  rcases decodePorts_cfe sel withArg a with ⟨c, hc, hd⟩ | ⟨hs, hd⟩
  · cases withArg with
    | false => exact .inl ⟨c, hc, rfl, by simp [serve, evalPorts, hd]⟩
    | true => exact .inr (.inl ⟨c, hc, rfl, by simp [serve, evalPorts, hd]⟩)
  · exact .inr (.inr ⟨hs, by simp [serve, evalPorts, hd, Refusal.ofPorts]⟩)

/-- A `DEC` request drives the measurement ports from `RX`, or is refused by its length (R75, R102). -/
theorem serve_mrd_cases (s : State) :
    (s.rx.length = 18 ∧ ∃ o, decodeResponse s.rx = some o ∧ serve .mrd s = .next (s.driveMeasurement o)) ∨
    (s.rx.length ≠ 18 ∧ serve .mrd s = .refused (.responseLength s.rx.length)) :=
  execDec_cases s.rx s

/-- A `WR` request writes the frame port's bytes, or is refused where it holds none (R89, U9). -/
theorem serve_wr_cases (s : State) :
    (∃ o, s.cfe = some o ∧ serve .wr s = .next (s.afterWrite (o.frame.take o.frameLen))) ∨
    (s.cfe = none ∧ serve .wr s = .refused (.outputNoValue .frame)) :=
  wrThen_cases s fun _ s1 => .next s1

@[simp] theorem serve_rd (s : State) : serve .rd s = .next s.afterRead := rfl

@[simp] theorem serve_fill (bytes : List Byte) (s : State) : serve (.fill bytes) s = .next (s.fillRx bytes) := rfl

/-- The pseudo-instruction a one-write operation sends; none for `read()` (R94 to R98). -/
def FacadeOp.command : FacadeOp → Option Pseudo
  | .reset => some .softResetReq
  | .startMeasuring => some .startMeas
  | .startMeasuringWithPressure p => some (.startMeasP p)
  | .setAutomaticCalibration e => some (if e then .ascOn else .ascOff)
  | .read => none

theorem runFacade_of_command {op : FacadeOp} {c : Pseudo} (h : op.command = some c) (s : State) :
    runFacade op s = sendCommand c s := by
  cases op <;> simp [FacadeOp.command] at h <;> subst h <;> rfl

/-- A facade operation is `read()` or sends one command (R99). -/
theorem FacadeOp.read_or_command (op : FacadeOp) : op = .read ∨ ∃ c, op.command = some c := by
  cases op <;> simp [FacadeOp.command]

/-- Blanking check bytes keeps a sequence's length. -/
@[simp] theorem blankChecks_length (l : List Byte) : (blankChecks l).length = l.length := by
  induction l using blankChecks.induct with
  | case1 b0 b1 b2 rest ih => simp [blankChecks, ih]
  | case2 short h => simp [blankChecks]

end Sys2Proof.Machine
end

