-- ==== Sys2Proof/Tests/Slice0.lean ====
section
/-! SUPPORT. Slice0.lean: small tests, one step each. Expected results are the spec's: 95_test_vectors.md (named in each comment), and words
written out from 30_encoding.md. Then, for every statement with hypotheses, a witness that meets them. -/

namespace Sys2Proof.Tests

open Sys2Proof.Machine Sys2Proof.Statements

/-- A machine after reset with one request pending. -/
def asked (r : Request) : State := { State.reset with requests := [r] }

/-- The same, with the next write and the next read fixed (R92). -/
def askedWith (r : Request) (w : TransportResult) (d : TransportResult) (bytes : Vector Byte 18) : State :=
  { asked r with writeDraws := [w], readDraws := [{ result := d, bytes := bytes }] }

/-- The published opcodes of 30_encoding.md R54's GK column: ONE possible build, used to run the parameterised readers. -/
def gk : OpcodeParams :=
  { stop := 0x0104, setInterval := 0x4600, dataReady := 0x0202, readMeas := 0x0300, frc := 0x5204,
    tempOffset := 0x5403, altitude := 0x5102, fwVersion := 0xD100, softReset := 0xD304 }

/-- V-L2-D1's response. -/
def counting : List Byte :=
  [0x00, 0x01, 0x02, 0x03, 0x04, 0x05, 0x06, 0x07, 0x08, 0x09, 0x0A, 0x0B, 0x0C, 0x0D, 0x0E, 0x0F, 0x10, 0x11]

/-- V-L1-4's response (400 / 25 / 50). -/
def fixture : Vector Byte 18 :=
  #v[0x43, 0xC8, 0xAA, 0x00, 0x00, 0x55, 0x41, 0xC8, 0x00, 0x00, 0x00, 0xFF, 0x42, 0x48, 0x12, 0x00, 0x00, 0x34]

/-! ## WellFormed: the one check, and a term it refuses -/

theorem test_wellFormed_refuses_17_bytes : (Instr.dec (counting.take 17)).wellFormed = false := by decide
theorem test_wellFormed_takes_18_bytes : (Instr.dec counting).wellFormed = true := by decide

/-! ## Decoding: words written out from R49, R50 and R54 -/

theorem test_word_enc_start : decodeTableWord 16 0b0000000000010000 = some .encStart := by decide
theorem test_word_enca_start : decodeTableWord 32 0b00000000000100000001001000110100 = some (.encaStart 0x1234) := by decide
theorem test_word_enc_asc : decodeTableWord 16 0b0101001100000110 = some .encAsc := by decide
theorem test_word_enca_asc : decodeTableWord 32 0b01010011000001100000000100000000 = some (.encaAsc 0x0100) := by decide
theorem test_word_dec : decodeTableWord 144 0x000102030405060708090A0B0C0D0E0F1011 = some (.dec counting) := by decide
theorem test_word_no_format : decodeTableWord 24 0x001000 = none := by decide
/-- The model's choice of log 12: 17 bits are no instruction, whatever their low bits spell. -/
theorem test_word_of_17_bits : decodeTableWord 17 0x0010 = none := by decide
theorem test_table_word_enca_frc : readTableWord gk 32 0x52040190 = some (.encaFrc 400) := by rfl
theorem test_wire_enc_stop : decodeWire gk [0x01, 0x04] = .ok .encStop := by rfl
theorem test_wire_enca_stop : decodeWire gk [0x01, 0x04, 0x00, 0xAB] = .ok (.encaStop 0x00AB) := by rfl
theorem test_wire_enc_set_interval : decodeWire gk [0x46, 0x00] = .ok .encSetInterval := by rfl
theorem test_wire_enca_set_interval : decodeWire gk [0x46, 0x00, 0x00, 0x02] = .ok (.encaSetInterval 2) := by rfl
theorem test_wire_enc_data_ready : decodeWire gk [0x02, 0x02] = .ok .encDataReady := by rfl
theorem test_wire_enca_data_ready : decodeWire gk [0x02, 0x02, 0x12, 0x34] = .ok (.encaDataReady 0x1234) := by rfl
theorem test_wire_enc_read_meas : decodeWire gk [0x03, 0x00] = .ok .encReadMeas := by rfl
theorem test_wire_enca_read_meas : decodeWire gk [0x03, 0x00, 0x12, 0x34] = .ok (.encaReadMeas 0x1234) := by rfl
theorem test_wire_enc_frc : decodeWire gk [0x52, 0x04] = .ok .encFrc := by rfl
theorem test_wire_enca_frc : decodeWire gk [0x52, 0x04, 0x01, 0x90] = .ok (.encaFrc 400) := by rfl
theorem test_wire_enc_temp_offset : decodeWire gk [0x54, 0x03] = .ok .encTempOffset := by rfl
theorem test_wire_enca_temp_offset : decodeWire gk [0x54, 0x03, 0x01, 0x00] = .ok (.encaTempOffset 0x0100) := by rfl
theorem test_wire_enc_altitude : decodeWire gk [0x51, 0x02] = .ok .encAltitude := by rfl
theorem test_wire_enca_altitude : decodeWire gk [0x51, 0x02, 0xFF, 0xFF] = .ok (.encaAltitude 0xFFFF) := by rfl
theorem test_wire_enc_fw_version : decodeWire gk [0xD1, 0x00] = .ok .encFwVersion := by rfl
theorem test_wire_enca_fw_version : decodeWire gk [0xD1, 0x00, 0x00, 0x01] = .ok (.encaFwVersion 1) := by rfl
theorem test_wire_enc_soft_reset : decodeWire gk [0xD3, 0x04] = .ok .encSoftReset := by rfl
theorem test_wire_enca_soft_reset : decodeWire gk [0xD3, 0x04, 0x00, 0x00] = .ok (.encaSoftReset 0) := by rfl
theorem test_wire_unknown_opcode : decodeWire gk [0x12, 0x34] = .error (.unknownOpcode 0x1234) := by rfl
theorem test_wire_no_format : decodeWire gk (counting.take 17) = .error (.noFormat 17) := by rfl

/-! ## The Command Frame Encoder: V-L2-E1 to E5 -/

theorem test_enc_start : exec .encStart State.reset =
    .next { State.reset with cfe := some { frame := [0x00, 0x10], frameLen := 2 } } := by rfl
theorem test_enca_start_1013 : exec (.encaStart 1013) State.reset =
    .next { State.reset with cfe := some { frame := [0x00, 0x10, 0x03, 0xF5], frameLen := 4 } } := by rfl
theorem test_enca_start_no_byte_swap : exec (.encaStart 256) State.reset =
    .next { State.reset with cfe := some { frame := [0x00, 0x10, 0x01, 0x00], frameLen := 4 } } := by rfl
theorem test_enca_asc_verbatim : exec (.encaAsc 0x0100) State.reset =
    .next { State.reset with cfe := some { frame := [0x53, 0x06, 0x01, 0x00], frameLen := 4 } } := by rfl
theorem test_enc_soft_reset : exec .encSoftReset State.reset =
    .next { State.reset with cfe := some { frame := be16Bytes Config.opcodeSoftReset, frameLen := 2 } } := by rfl
theorem test_enca_altitude : exec (.encaAltitude 0xFFFF) State.reset =
    .next { State.reset with cfe := some { frame := be16Bytes Config.opcodeAltitude ++ [0xFF, 0xFF], frameLen := 4 } } := by rfl
theorem test_ignored_arg : step (asked (.cfe 0 false 0xBEEF)) =
    .next { State.reset with cfe := some { frame := [0x00, 0x10], frameLen := 2 } } := by rfl
theorem test_reserved_selector_11 : step (asked (.cfe 11 false 0)) = .refused (.reservedSelector 11) := by rfl
theorem test_reserved_selector_15 : step (asked (.cfe 15 true 0)) = .refused (.reservedSelector 15) := by rfl
theorem test_selector_10_is_accepted : step (asked (.cfe 10 false 0)) =
    .next { State.reset with cfe := some { frame := be16Bytes Config.opcodeSoftReset, frameLen := 2 } } := by rfl
theorem test_frame_byte_2_has_no_value :
    readFrameByte 2 (State.reset.driveFrame [0x00, 0x10] 2) = .error (.outputNoValue .frame) := by rfl

/-! ## The Measurement Response Decoder: V-L1-4, V-L2-D1, D4, D5, D8, D10 -/

theorem test_dec_counting : exec (.dec counting) State.reset =
    .next { State.reset with mrd := some {
      co2 := 0x00010304, temperature := 0x0607090A, humidity := 0x0C0D0F10, chk := #v[0x02, 0x05, 0x08, 0x0B, 0x0E, 0x11] } } := by rfl
theorem test_dec_fixture : decodeResponse fixture.toList =
    some { co2 := 0x43C80000, temperature := 0x41C80000, humidity := 0x42480000, chk := #v[0xAA, 0x55, 0x00, 0xFF, 0x12, 0x34] } := by rfl
theorem test_dec_nan_negative_zero_infinity : decodeResponse
      [0x7F, 0xC0, 0x00, 0x00, 0x01, 0x00, 0x80, 0x00, 0x00, 0x00, 0x00, 0x00, 0x7F, 0x80, 0x00, 0x00, 0x00, 0x00] =
    some { co2 := 0x7FC00001, temperature := 0x80000000, humidity := 0x7F800000, chk := #v[0, 0, 0, 0, 0, 0] } := by rfl
theorem test_dec_subnormal : decodeResponse
      [0x00, 0x00, 0xFF, 0x00, 0x01, 0xFF, 0xFF, 0x80, 0x01, 0x00, 0x00, 0x02, 0xFF, 0xFF, 0x03, 0xFF, 0xFF, 0x04] =
    some { co2 := 0x00000001, temperature := 0xFF800000, humidity := 0xFFFFFFFF, chk := #v[0xFF, 0xFF, 0x01, 0x02, 0x03, 0x04] } := by rfl
theorem test_dec_mislaid : decodeResponse
      [0x43, 0xCF, 0xC0, 0x00, 0x00, 0x00, 0x41, 0xB6, 0x00, 0x00, 0x00, 0x00, 0x42, 0x35, 0x00, 0x00, 0x00, 0x00] =
    some { co2 := 0x43CF0000, temperature := 0x41B60000, humidity := 0x42350000, chk := #v[0xC0, 0, 0, 0, 0, 0] } := by rfl
theorem test_dec_17_bytes : exec (.dec (counting.take 17)) State.reset = .refused (.responseLength 17) := by rfl
theorem test_dec_19_bytes : exec (.dec (counting ++ [0x12])) State.reset = .refused (.responseLength 19) := by rfl
theorem test_dec_0_bytes : step (asked .mrd) = .refused (.responseLength 0) := by rfl

/-! ## The host: V-L2-H1 to H8 -/

/-- A view of the next state: transport log and host results. -/
def logAndResults : Result → Option (List TransportCall × List HostResult)
  | .next s => some (s.log, s.results)
  | .fault _ => none
  | .refused _ => none

theorem test_reset_ok : logAndResults (step (askedWith (.facade .reset) .ok .ok fixture)) =
    some ([.write Config.busAddr7 (be16Bytes Config.opcodeSoftReset)], [.done]) := by rfl
theorem test_reset_err : logAndResults (step (askedWith (.facade .reset) (.err ⟨5⟩) .ok fixture)) =
    some ([.write Config.busAddr7 (be16Bytes Config.opcodeSoftReset)], [.err ⟨5⟩]) := by rfl
theorem test_start_measuring : logAndResults (step (askedWith (.facade .startMeasuring) .ok .ok fixture)) =
    some ([.write Config.busAddr7 [0x00, 0x10, 0x00, 0x00]], [.done]) := by rfl
theorem test_start_measuring_with_pressure :
    logAndResults (step (askedWith (.facade (.startMeasuringWithPressure 1013)) .ok .ok fixture)) =
    some ([.write Config.busAddr7 [0x00, 0x10, 0x03, 0xF5]], [.done]) := by rfl
theorem test_calibration_err : logAndResults (step (askedWith (.facade (.setAutomaticCalibration false)) (.err ⟨1⟩) .ok fixture)) =
    some ([.write Config.busAddr7 [0x53, 0x06, 0x00, 0x00]], [.err ⟨1⟩]) := by rfl
theorem test_calibration_on : logAndResults (step (askedWith (.facade (.setAutomaticCalibration true)) .ok .ok fixture)) =
    some ([.write Config.busAddr7 [0x53, 0x06, 0x00, 0x01]], [.done]) := by rfl
theorem test_read_write_err : logAndResults (step (askedWith (.facade .read) (.err ⟨2⟩) .ok fixture)) =
    some ([.write Config.busAddr7 (be16Bytes Config.opcodeReadMeas)], [.err ⟨2⟩]) := by rfl
theorem test_read_read_err : logAndResults (step (askedWith (.facade .read) .ok (.err ⟨3⟩) fixture)) =
    some ([.write Config.busAddr7 (be16Bytes Config.opcodeReadMeas), .read Config.busAddr7 18], [.err ⟨3⟩]) := by rfl
theorem test_read_ok : logAndResults (step (askedWith (.facade .read) .ok .ok fixture)) =
    some ([.write Config.busAddr7 (be16Bytes Config.opcodeReadMeas), .read Config.busAddr7 18],
      [.measured { co2 := 0x43C80000, temperature := 0x41C80000, humidity := 0x42480000 }]) := by rfl
theorem test_wr_without_frame : step (asked .wr) = .refused (.outputNoValue .frame) := by rfl
theorem test_idle : step State.reset = .next State.reset := by rfl

/-- A placed word runs as the first instruction after reset (V-L2-E2). -/
theorem test_placed_word : step (State.reset.withFetchWord 32 0x001000FF) =
    .next { State.reset with cfe := some { frame := [0x00, 0x10, 0x00, 0xFF], frameLen := 4 } } := by rfl

/-! ## Witnesses: the hypotheses of the statements can be met -/

/-- DecodingAnEncodedInstructionGivesItBack, WordsHaveTheirFormatsLength: a build with eleven opcodes that differ, and well-formed instructions of each form. -/
theorem witness_distinct_opcodes : gk.Distinct ∧ (Instr.dec counting).wellFormed = true ∧
    Instr.encStop.wellFormed = true ∧ (Instr.encaFrc 0xFFFF).wellFormed = true := by decide

/-- TableWordsReadByTheirBitNumbers: the build above, and numbers of bits on either side of each format's. -/
theorem witness_table_words : gk.Distinct ∧ (∀ n ∈ [0, 15, 17, 31, 33, 143, 145], n ≠ 16 ∧ n ≠ 32 ∧ n ≠ 144) ∧
    readTableWord gk 16 0x0104 = some .encStop ∧ readTableWord gk 32 0xD304FFFF = some (.encaSoftReset 0xFFFF) :=
  ⟨by decide, by decide, rfl, rfl⟩

/-- EncodingADecodedWordGivesItBack: a word of each length that reads as an instruction. -/
theorem witness_words_that_read : decodeWire gk [0xD3, 0x04] = .ok .encSoftReset ∧
    decodeWire gk [0x46, 0x00, 0xFF, 0xFF] = .ok (.encaSetInterval 0xFFFF) ∧ decodeWire gk counting = .ok (.dec counting) :=
  ⟨rfl, rfl, rfl⟩

/-- PortsAreReadBackFromTheInstruction: port values of both forms, at the first and the last selector. -/
theorem witness_ports_that_read : decodePorts (.cfe 0 false 0xBEEF) = .ok .encStart ∧
    decodePorts (.cfe 10 true 0xFFFF) = .ok (.encaSoftReset 0xFFFF) := ⟨rfl, rfl⟩

/-- EncRequestDrivesTheBareOpcode, EncaRequestDrivesOpcodeAndArgument, BlockRefusalsAreAClosedList: a pending request of each form, with the
selectors on either side of the boundary. -/
theorem witness_cfe_requests :
    (asked (.cfe 10 false 7)).requests = [.cfe 10 false 7] ∧ (asked (.cfe 11 true 7)).requests = [.cfe 11 true 7] ∧
    Command.ofSel 10 = some .softReset ∧ Command.ofSel 0 = some .start ∧
    11 ≤ (11 : BitVec 4).toNat ∧ 11 ≤ (15 : BitVec 4).toNat := by decide

/-- DrivenFrameIsTheTableWord, UnitsCommute, InstructionsChangeOnlyTheirOwnPorts, AStepRunsThePlacedWord: an instruction of each format. -/
theorem witness_formats : Instr.encAsc.format ≠ .r18 ∧ (Instr.encaAsc 1).format ≠ .r18 ∧ (Instr.dec counting).format = .r18 := by decide

/-- FramePortHasExactlyFrameLenBytes, OperationsAreIdempotent, InstructionsChangeOnlyTheirOwnPorts, ResultsDependOnInputPortsAlone: instructions
of the three operations that answer a next state, and one that is refused. -/
theorem witness_next_states :
    exec (.enc .stop) State.reset = .next (State.reset.driveFrame (be16Bytes Config.opcodeStop) 2) ∧
    exec (.enca .stop 0xFFFF) State.reset = .next (State.reset.driveFrame (be16Bytes Config.opcodeStop ++ [0xFF, 0xFF]) 4) ∧
    (∃ t, exec (.dec counting) State.reset = .next t) ∧
    exec (.dec []) State.reset = .refused (.responseLength 0) := ⟨rfl, rfl, ⟨_, rfl⟩, rfl⟩

/-- FieldsAndCheckBytesByIndex, DecIsTotalAndPure, UnitsCommute, DecRefusesOtherLengths: lengths on either side of 18. -/
theorem witness_lengths : counting.length = 18 ∧ (counting.take 17).length ≠ 18 ∧ (counting ++ [0]).length ≠ 18 := by decide

/-- CheckBytesContributeNoBit: two responses that differ in all six check bytes and nowhere else (V-L2-D6, D7). -/
theorem witness_check_bytes_differ :
    let a : List Byte := [0x43, 0xC8, 0x00, 0x00, 0x00, 0x00, 0x41, 0xC8, 0x00, 0x00, 0x00, 0x00, 0x42, 0x48, 0x00, 0x00, 0x00, 0x00]
    let b : List Byte := [0x43, 0xC8, 0xFF, 0x00, 0x00, 0xFF, 0x41, 0xC8, 0xFF, 0x00, 0x00, 0xFF, 0x42, 0x48, 0xFF, 0x00, 0x00, 0xFF]
    a.length = 18 ∧ b.length = 18 ∧ a ≠ b ∧ ∀ i, i % 3 ≠ 2 → a[i]? = b[i]? := by
  intro a b
  have below : ∀ j : Fin 18, j.val % 3 ≠ 2 → a[j.val]? = b[j.val]? := by decide
  refine ⟨rfl, rfl, by decide, fun i hi => ?_⟩
  rcases Nat.lt_or_ge i 18 with h | h
  · exact below ⟨i, h⟩ hi
  · rw [List.getElem?_eq_none h, List.getElem?_eq_none h]

/-- AStepRunsThePortsInstruction, BlockRefusalsAreAClosedList: a `DEC` request on 18 bytes, and one on none. -/
theorem witness_dec_requests :
    { asked .mrd with rx := counting }.requests = [.mrd] ∧ { asked .mrd with rx := counting }.rx.length = 18 ∧
    (asked .mrd).rx.length ≠ 18 := by decide

/-- AStepRunsThePlacedWord: a table word of each length. -/
theorem witness_placed_words : decodeTableWord 16 0x5306 = some .encAsc ∧ decodeTableWord 32 0x5306FFFF = some (.encaAsc 0xFFFF) ∧
    (∃ rx, decodeTableWord 144 0 = some (.dec rx)) := ⟨by decide, by decide, _, rfl⟩

/-- WithoutARequestTheMachineWaits; and RequestsAreServedInOrder, TheLogOnlyGrows, EveryCallUsesTheOneAddress: a step that answers a next state
and makes a call. -/
theorem witness_steps : State.reset.requests = [] ∧ ∃ t, step (asked .rd) = .next t ∧ t.log = [.read Config.busAddr7 18] :=
  ⟨rfl, _, rfl, rfl⟩

/-- EveryStepKeepsTheInvariant: a state with a frame and a logged call that meets the invariant, and steps to a next state. -/
theorem witness_invariant :
    let s : State := { asked .wr with
      cfe := some { frame := frameF2 Config.opcodes .readMeas, frameLen := 2 }
      log := [.write Config.busAddr7 (frameF4 Config.opcodes .start 0)] }
    Inv s ∧ ∃ t, step s = .next t := by
  refine ⟨⟨fun o ho => ?_, fun c hc => ?_⟩, _, rfl⟩
  · cases ho
    exact ⟨⟨.readMeas, .inl rfl⟩, rfl⟩
  · cases List.mem_singleton.mp hc
    exact ⟨rfl, .start, .inr ⟨0, rfl⟩⟩

/-- ADutifulHostIsNeverStopped, AServedHostStaysDutiful: program P2 (95_test_vectors.md) meets the host's duties from reset. -/
theorem witness_dutiful :
    { State.reset with requests :=
        [.cfe 5 true 1, .wr, .cfe 0 true 1013, .wr, .cfe 4 false 0, .wr, .rd, .mrd, .facade .read, .fill counting, .mrd] }.dutiful = true := by
  decide

/-- RawTransportCalls: each of the three requests pending; a frame at the port for the first. -/
theorem witness_raw_calls :
    { asked .wr with cfe := some { frame := [0x00, 0x10], frameLen := 2 } }.cfe = some { frame := [0x00, 0x10], frameLen := 2 } ∧
    { asked .wr with cfe := some { frame := [0x00, 0x10], frameLen := 2 } }.requests = [.wr] ∧
    (asked .rd).requests = [.rd] ∧ (asked (.fill [1])).requests = [.fill [1]] := by decide

/-- ResetWritesSoftResetOnce, StartMeasuringWritesThePressure, SetAutomaticCalibrationWritesTheFlag: each operation pending. -/
theorem witness_one_write_operations :
    (asked (.facade .reset)).requests = [.facade .reset] ∧
    (asked (.facade .startMeasuring)).requests = [.facade .startMeasuring] ∧
    (asked (.facade (.startMeasuringWithPressure 0xFFFF))).requests = [.facade (.startMeasuringWithPressure 0xFFFF)] ∧
    (asked (.facade (.setAutomaticCalibration true))).requests = [.facade (.setAutomaticCalibration true)] := by decide

/-- ReadWritesThenReadsThenDecodes, AFailedCallEndsTheOperation, TheFacadeWritesOnlyItsFourCommands, AFacadeOperationIsItsSequence: `read()` pending
with each outcome of its write and of its read, and the step's next state with each outcome of its last call. -/
theorem witness_read_outcomes :
    (askedWith (.facade .read) (.err ⟨2⟩) .ok fixture).writeResult = .err ⟨2⟩ ∧
    (askedWith (.facade .read) .ok (.err ⟨3⟩) fixture).writeResult = .ok ∧
    (∃ t, step (askedWith (.facade .read) .ok (.err ⟨3⟩) fixture) = .next t ∧ t.lastCall = some (.err ⟨3⟩)) ∧
    (∃ t, step (askedWith (.facade .read) .ok .ok fixture) = .next t ∧ t.lastCall = some .ok) :=
  ⟨rfl, rfl, ⟨_, rfl, rfl⟩, ⟨_, rfl, rfl⟩⟩

/-- AFailedCallEndsTheOperation: after `read()`'s write succeeds, the read drawn fails; TheLogOnlyGrows: a step whose last call is a write
that fails, one whose last call is that failing read, and one that makes none. -/
theorem witness_failed_calls :
    (readDrawAfter 1 (askedWith (.facade .read) .ok (.err ⟨3⟩) fixture)).result = .err ⟨3⟩ ∧
    (∃ t, step (askedWith (.facade .reset) (.err ⟨2⟩) .ok fixture) = .next t ∧ t.lastCall = some (.err ⟨2⟩) ∧
      t.log = [.write Config.busAddr7 (frameF2 Config.opcodes .softReset)]) ∧
    (∃ t, step (askedWith (.facade .read) .ok (.err ⟨3⟩) fixture) = .next t ∧ t.lastCall = some (.err ⟨3⟩) ∧
      t.log = [.write Config.busAddr7 (frameF2 Config.opcodes .readMeas), .read Config.busAddr7 18]) ∧
    (∃ t, step (asked (.fill counting)) = .next t ∧ t.lastCall = none ∧ t.log = []) :=
  ⟨rfl, ⟨_, rfl, rfl, rfl⟩, ⟨_, rfl, rfl, rfl⟩, ⟨_, rfl, rfl, rfl⟩⟩

/-- AFacadeOperationIsItsSequence: the calls and the encoding made up to a failed write (2 steps) and up to a failed read (3 steps). -/
theorem witness_parts_of_the_sequence :
    (∃ t, step (askedWith (.facade .read) (.err ⟨2⟩) .ok fixture) = .next t ∧ t.lastCall = some (.err ⟨2⟩) ∧ 1 + t.log.length = 2) ∧
    (∃ t, step (askedWith (.facade .read) .ok (.err ⟨3⟩) fixture) = .next t ∧ t.lastCall = some (.err ⟨3⟩) ∧ 1 + t.log.length = 3) :=
  ⟨⟨_, rfl, rfl, rfl⟩, ⟨_, rfl, rfl, rfl⟩⟩

/-- ReadWritesThenReadsThenDecodes: the read drawn after the write, with each outcome. -/
theorem witness_read_draws :
    (askedWith (.facade .read) .ok (.err ⟨3⟩) fixture).readDraw.result = .err ⟨3⟩ ∧
    (askedWith (.facade .read) .ok .ok fixture).readDraw.result = .ok := ⟨rfl, rfl⟩

/-- EveryReadFollowsItsRequest: a host that only uses the facade, a log that meets the discipline with a read in it, and a run. -/
theorem witness_facade_only :
    let s : State := { askedWith (.facade .read) .ok .ok fixture with
      log := [.write Config.busAddr7 (frameF2 Config.opcodes .readMeas), .read Config.busAddr7 18] }
    FacadeOnly s ∧ ReadsFollowRequest s.log ∧ ∃ t, run 1 s = .next t := by
  refine ⟨fun r hr => ⟨.read, List.mem_singleton.mp hr⟩, fun i addr len h => ?_, _, rfl⟩
  match i, h with
  | 1, _ => exact ⟨0, rfl, rfl⟩

/-- CheckBytesNeverReachAFieldOrAResult: two states that differ in the check bytes of a pending response, of `RX` and of a drawn read. -/
theorem witness_same_but_checks :
    let s : State := { askedWith (.fill counting) .ok .ok fixture with rx := counting }
    let t : State := { askedWith (.fill (blankChecks counting)) .ok .ok (fixture.set 2 0x00) with rx := blankChecks counting }
    SameButChecks s t ∧ s ≠ t := by
  refine ⟨⟨rfl, rfl, rfl, rfl, rfl, rfl, rfl, rfl, rfl⟩, fun h => ?_⟩
  exact absurd (congrArg State.rx h) (by decide)

end Sys2Proof.Tests
end

section
/-! Byte order and the opcodes the source gives (00_scope.md R10, R14). The key fact is `be32_eq_append_be16`: a pattern is its
two data pairs side by side (R35), so what splitting and joining do to a half carries over to a pattern. -/

namespace Sys2Proof

/-! ## Byte order (R14, R32, R35) -/

@[simp] theorem be16_hi8_lo8 (v : Half) : be16 (hi8 v) (lo8 v) = v :=
  BitVec.extractLsb'_append_extractLsb' (w := 8) (len := 8)

@[simp] theorem hi8_be16 (hi lo : Byte) : hi8 (be16 hi lo) = hi := BitVec.extractLsb'_append_eq_left

@[simp] theorem lo8_be16 (hi lo : Byte) : lo8 (be16 hi lo) = lo := BitVec.extractLsb'_append_eq_right

@[simp] theorem be16Bytes_be16 (hi lo : Byte) : be16Bytes (be16 hi lo) = [hi, lo] := by
  simp [be16Bytes]

/-- `be32` is the first data pair in the high half and the second in the low half (R35). -/
theorem be32_eq_append_be16 (b0 b1 b2 b3 : Byte) : be32 b0 b1 b2 b3 = be16 b0 b1 ++ be16 b2 b3 :=
  BitVec.append_assoc (x₁ := b0 ++ b1) (x₂ := b2) (x₃ := b3)

@[simp] theorem be32_firstPair (b0 b1 b2 b3 : Byte) : (be32 b0 b1 b2 b3).extractLsb' 16 16 = be16 b0 b1 := by
  rw [be32_eq_append_be16]
  exact BitVec.extractLsb'_append_eq_left

@[simp] theorem be32_secondPair (b0 b1 b2 b3 : Byte) : (be32 b0 b1 b2 b3).extractLsb' 0 16 = be16 b2 b3 := by
  rw [be32_eq_append_be16]
  exact BitVec.extractLsb'_append_eq_right

@[simp] theorem be32_extractLsb' (w : FloatBits) :
    be32 (w.extractLsb' 24 8) (w.extractLsb' 16 8) (w.extractLsb' 8 8) (w.extractLsb' 0 8) = w := by
  have firstPair : be16 (w.extractLsb' 24 8) (w.extractLsb' 16 8) = w.extractLsb' 16 16 :=
    BitVec.extractLsb'_append_extractLsb'_eq_extractLsb' rfl
  have secondPair : be16 (w.extractLsb' 8 8) (w.extractLsb' 0 8) = w.extractLsb' 0 16 :=
    BitVec.extractLsb'_append_extractLsb'_eq_extractLsb' rfl
  rw [be32_eq_append_be16, firstPair, secondPair]
  exact BitVec.extractLsb'_append_extractLsb' (w := 16) (len := 16)

/-- Settles O1, from the inverse laws of `be16` and of `be32`. -/
theorem bigEndianSplitAndJoinAreInverse : Obligations.BigEndianSplitAndJoinAreInverse :=
  ⟨be16_hi8_lo8, be16Bytes_be16, be32_extractLsb',
    fun b0 b1 b2 b3 => ⟨be32_firstPair b0 b1 b2 b3, be32_secondPair b0 b1 b2 b3⟩⟩

/-! ## The opcodes the source gives (R10) -/

@[simp] theorem opcode_start (p : OpcodeParams) : opcode p .start = 0x0010#16 := rfl

@[simp] theorem opcode_asc (p : OpcodeParams) : opcode p .asc = 0x5306#16 := rfl

/-- Settles O2, from the opcode map's own two equations. -/
theorem knownOpcodesAreFixed : Obligations.KnownOpcodesAreFixed :=
  fun p => ⟨opcode_start p, opcode_asc p⟩

end Sys2Proof
end

section
/-! The state, the step and the two units together (10_state.md). The key facts: a CFE instruction drives one frame, the same from
every state (`exec_of_format_ne_r18`), and so does a `DEC` with its measurement (`exec_dec_of_length`); an instruction placed at the ports
is the one the step runs (`step_present_cfe`, `step_present_dec`); the invariant is kept by each update of the state, and so by each
request (`serve_keeps_inv`). -/

namespace Sys2Proof

/-! ## Formats and port values of the three operations (R23, R48) -/

@[simp] theorem Instr.format_enc (c : Command) : (Instr.enc c).format = .f2 := by simp [Instr.format]

@[simp] theorem Instr.format_enca (c : Command) (a : Half) : (Instr.enca c a).format = .f4 := by simp [Instr.format]

@[simp] theorem Instr.format_dec (rx : List Byte) : (Instr.dec rx).format = .r18 := rfl

/-- The CFE's instructions are those of the formats F2 and F4. -/
theorem Instr.eq_enc_or_enca {i : Instr} (h : i.format ≠ .r18) : (∃ c, i = .enc c) ∨ ∃ c a, i = .enca c a := by
  rcases i.eq_enc_or_enca_or_dec with hc | hca | ⟨rx, rfl⟩
  · exact .inl hc
  · exact .inr hca
  · exact absurd (Instr.format_dec rx) h

/-- The MRD's instructions are those of the format R18. -/
theorem Instr.eq_dec {i : Instr} (h : i.format = .r18) : ∃ rx, i = .dec rx := by
  rcases i.eq_enc_or_enca_or_dec with ⟨c, rfl⟩ | ⟨c, a, rfl⟩ | hdec
  · simp at h
  · simp at h
  · exact hdec

@[simp] theorem encodePorts_enc (c : Command) : encodePorts (.enc c) = .cfe c.sel false 0 := by simp [encodePorts]

@[simp] theorem encodePorts_enca (c : Command) (a : Half) : encodePorts (.enca c a) = .cfe c.sel true a := by
  simp [encodePorts]

@[simp] theorem encodePorts_dec (rx : List Byte) : encodePorts (.dec rx) = .mrd rx := rfl

@[simp] theorem decodePorts_cfe_sel (c : Command) (withArg : Bool) (a : Half) :
    decodePorts (.cfe c.sel withArg a) = .ok (if withArg then .enca c a else .enc c) := by simp [decodePorts]

/-- Where `with_arg` is 0, reading the ports does not read `arg` (R23). -/
theorem decodePorts_unread_arg (sel : BitVec 4) (a b : Half) :
    decodePorts (.cfe sel false a) = decodePorts (.cfe sel false b) := rfl

/-- Settles O9, by what reading the CFE's ports can answer. -/
theorem portsAreReadBackFromTheInstruction : Obligations.PortsAreReadBackFromTheInstruction := by
  intro sel withArg a i h
  rcases decodePorts_cfe sel withArg a with ⟨c, rfl, hd⟩ | ⟨-, hd⟩
  · cases hd.symm.trans h
    cases withArg with
    | false => exact encodePorts_enc c
    | true => exact encodePorts_enca c a
  · cases hd.symm.trans h

end Sys2Proof

namespace Sys2Proof.Machine

/-! ## Reading the output ports (R24, R27, U8, U9) -/

theorem readFrameByte_of_getElem? {s : State} {f : List Byte} {k : Nat} {b : Byte} (hf : readFrame s = .ok f)
    (hk : f[k]? = some b) : readFrameByte k s = .ok b := by simp [readFrameByte, hf, hk]

/-- A byte beyond the frame holds no value (U8). -/
theorem readFrameByte_of_length_le {s : State} {f : List Byte} {k : Nat} (hf : readFrame s = .ok f)
    (hk : f.length ≤ k) : readFrameByte k s = .error (.outputNoValue .frame) := by
  simp [readFrameByte, hf, List.getElem?_eq_none hk]

theorem readFrameByte_of_none {s : State} (h : s.cfe = none) (k : Nat) :
    readFrameByte k s = .error (.outputNoValue .frame) := by simp [readFrameByte, readFrame_of_none h]

theorem readMeasurement_of_none {s : State} (h : s.mrd = none) :
    readMeasurement s = .error (.outputNoValue .measurement) := by simp [readMeasurement, h]

/-- Settles O18: the frame port holds the driven frame, whose bytes stand in `frameF2` and in `frameF4`. -/
theorem framePortHasExactlyFrameLenBytes : Obligations.FramePortHasExactlyFrameLenBytes := by
  intro s t c a
  constructor
  · intro h
    cases (exec_enc c s).symm.trans h
    have hf := readFrame_driveFrame (frameF2 Config.opcodes c) 2 s
    exact ⟨⟨_, rfl, rfl, rfl, (by decide : 2 ≤ Config.maxFrame)⟩,
      readFrameByte_of_getElem? hf rfl, readFrameByte_of_getElem? hf rfl,
      fun k hk => readFrameByte_of_length_le hf hk⟩
  · intro h
    cases (exec_enca c a s).symm.trans h
    have hf := readFrame_driveFrame (frameF4 Config.opcodes c a) 4 s
    exact ⟨⟨_, rfl, rfl, rfl, (by decide : 4 ≤ Config.maxFrame)⟩,
      readFrameByte_of_getElem? hf rfl, readFrameByte_of_getElem? hf rfl,
      readFrameByte_of_getElem? hf rfl, readFrameByte_of_getElem? hf rfl,
      fun k hk => readFrameByte_of_length_le hf hk⟩

/-- Settles O31: both output ports are empty after reset, and so is every list. -/
theorem resetStateHoldsNoOutputValue : Obligations.ResetStateHoldsNoOutputValue :=
  ⟨rfl, rfl, readFrameByte_of_none rfl, readMeasurement_of_none rfl, rfl, rfl, rfl, rfl, rfl, rfl, rfl⟩

/-! ## What an instruction drives is the same from every state (R16, R28, R84) -/

/-- A CFE instruction drives one frame, whatever the state (R16, R61). -/
theorem exec_of_format_ne_r18 {i : Instr} (h : i.format ≠ .r18) :
    ∃ f n, ∀ s, exec i s = .next (s.driveFrame f n) := by
  rcases Instr.eq_enc_or_enca h with ⟨c, rfl⟩ | ⟨c, a, rfl⟩
  · exact ⟨_, _, exec_enc c⟩
  · exact ⟨_, _, exec_enca c a⟩

/-- `DEC` of 18 bytes drives one measurement, whatever the state (R84). -/
theorem exec_dec_of_length {rx : List Byte} (h : rx.length = 18) :
    ∃ o, ∀ s, exec (.dec rx) s = .next (s.driveMeasurement o) := by
  rcases decodeResponse_cases rx with ⟨-, o, ho⟩ | ⟨hne, -⟩
  · exact ⟨o, fun s => by simp [exec, execDec, decOp, ho]⟩
  · exact absurd h hne

/-- `DEC` of any other length is refused by that length, whatever the state (R102). -/
theorem exec_dec_of_length_ne {rx : List Byte} (h : rx.length ≠ 18) (s : State) :
    exec (.dec rx) s = .refused (.responseLength rx.length) := by
  rcases execDec_cases rx s with ⟨hl, -⟩ | ⟨-, he⟩
  · exact absurd hl h
  · exact he

/-- The two units drive different ports, so the order of driving them does not show (R28). -/
theorem State.driveMeasurement_driveFrame (o : MrdOutput) (f : List Byte) (n : Nat) (s : State) :
    (s.driveFrame f n).driveMeasurement o = (s.driveMeasurement o).driveFrame f n := rfl

/-- Settles O27: what an instruction drives, or its refusal, is given before the state is. -/
theorem resultsDependOnInputPortsAlone : Obligations.ResultsDependOnInputPortsAlone := by
  intro i s t
  by_cases hi : i.format = .r18
  · obtain ⟨rx, rfl⟩ := Instr.eq_dec hi
    by_cases hl : rx.length = 18
    · obtain ⟨o, ho⟩ := exec_dec_of_length hl
      refine ⟨fun r hr => ?_, fun s' hs => ?_⟩
      · cases (ho s).symm.trans hr
      · cases (ho s).symm.trans hs
        exact ⟨_, ho t, fun hne => absurd hi hne, fun _ => rfl⟩
    · refine ⟨fun r hr => ?_, fun s' hs => ?_⟩
      · cases (exec_dec_of_length_ne hl s).symm.trans hr
        exact exec_dec_of_length_ne hl t
      · cases (exec_dec_of_length_ne hl s).symm.trans hs
  · obtain ⟨f, n, hf⟩ := exec_of_format_ne_r18 hi
    refine ⟨fun r hr => ?_, fun s' hs => ?_⟩
    · cases (hf s).symm.trans hr
    · cases (hf s).symm.trans hs
      exact ⟨_, hf t, fun _ => rfl, fun h => absurd h hi⟩

/-- Settles O29: each unit drives its own port with the same values in either order. -/
theorem unitsCommute : Obligations.UnitsCommute := by
  intro i rx s hi hl
  obtain ⟨f, n, hf⟩ := exec_of_format_ne_r18 hi
  obtain ⟨o, ho⟩ := exec_dec_of_length hl
  exact ⟨s.driveFrame f n, s.driveMeasurement o, (s.driveMeasurement o).driveFrame f n, hf s, ho s,
    (ho _).trans (congrArg _ (State.driveMeasurement_driveFrame o f n s)), hf _, rfl, rfl⟩

/-! ## The step runs what the ports request (R18, R23, R25) -/

theorem evalPorts_of_decodePorts {p : PortInput} {i : Instr} (h : decodePorts p = .ok i) (s : State) :
    evalPorts p s = exec i s := by simp [evalPorts, h]

theorem serve_cfe (sel : BitVec 4) (withArg : Bool) (a : Half) (s : State) :
    serve (.cfe sel withArg a) s = evalPorts (.cfe sel withArg a) s := rfl

theorem serve_mrd (s : State) : serve .mrd s = exec (.dec s.rx) s := rfl

/-- Settles O8: the ports are read as the same instruction. -/
theorem unreadArgumentHasNoEffect : Obligations.UnreadArgumentHasNoEffect := by
  intro sel a b s
  simp only [evalPorts, decodePorts_unread_arg sel a b]

/-- Settles O32, from the equations of `step` and of `serve`. -/
theorem aStepRunsThePortsInstruction : Obligations.AStepRunsThePortsInstruction := by
  constructor
  · intro s rest sel withArg a i hq hd
    rw [step_of_cons hq, serve_cfe, evalPorts_of_decodePorts hd]
    rfl
  · intro s rest hq
    rw [step_of_cons hq, serve_mrd]
    rfl

/-- Settles O34: it is the first equation of `step`. -/
theorem withoutARequestTheMachineWaits : Obligations.WithoutARequestTheMachineWaits :=
  fun _ h => step_of_nil h

/-! ## An instruction placed at the ports (logs 1, 12, 21) -/

@[simp] theorem State.withRequests_withRequests (q q' : List Request) (s : State) :
    (s.withRequests q).withRequests q' = s.withRequests q' := rfl

@[simp] theorem State.withRequests_self (s : State) : s.withRequests s.requests = s := rfl

/-- The step after a request has been put before the pending ones serves it, and leaves those pending. -/
theorem step_withRequests_cons (r : Request) (s : State) : step (s.withRequests (r :: s.requests)) = serve r s := by
  rw [step_of_cons (State.withRequests_requests _ s)]
  simp

theorem step_present_cfe {i : Instr} (h : i.format ≠ .r18) (s : State) : step (s.present i) = exec i s := by
  rcases Instr.eq_enc_or_enca h with ⟨c, rfl⟩ | ⟨c, a, rfl⟩
  · have hd := decodePorts_cfe_sel c false 0
    rw [State.present, encodePorts_enc, State.presentPorts, step_withRequests_cons, serve_cfe,
      evalPorts_of_decodePorts hd, if_neg Bool.false_ne_true]
  · have hd := decodePorts_cfe_sel c true a
    rw [State.present, encodePorts_enca, State.presentPorts, step_withRequests_cons, serve_cfe,
      evalPorts_of_decodePorts hd, if_pos rfl]

/-- A response is placed in `RX`, from where the step takes it (R25). -/
theorem step_present_dec (rx : List Byte) (s : State) :
    step (s.present (.dec rx)) = exec (.dec rx) (s.fillRx rx) :=
  step_withRequests_cons .mrd (s.fillRx rx)

theorem State.withFetchWord_of_decode {nbits w : Nat} {i : Instr} (h : decodeTableWord nbits w = some i) (s : State) :
    s.withFetchWord nbits w = s.present i := by simp [State.withFetchWord, h]

/-- Settles O33: placing the word presents its instruction, which is the next request served. -/
theorem aStepRunsThePlacedWord : Obligations.AStepRunsThePlacedWord := by
  intro s nbits w i hw
  rw [State.withFetchWord_of_decode hw]
  refine ⟨fun hi => step_present_cfe hi s, ?_⟩
  rintro rx rfl
  exact step_present_dec rx s

/-! ## The invariant (R24, R56, R90) -/

theorem isFrame_frameF2 (p : OpcodeParams) (c : Command) : IsFrame p (frameF2 p c) := ⟨c, .inl rfl⟩

theorem isFrame_frameF4 (p : OpcodeParams) (c : Command) (a : Half) : IsFrame p (frameF4 p c a) := ⟨c, .inr ⟨a, rfl⟩⟩

/-- Every pseudo-instruction's frame is a frame of a mapped opcode. -/
theorem isFrame_pseudo (p : OpcodeParams) (c : Pseudo) : IsFrame p (Pseudo.frame p c) := by
  cases c with
  | startMeas => exact isFrame_frameF4 p .start 0
  | startMeasP a => exact isFrame_frameF4 p .start a
  | ascOn => exact isFrame_frameF4 p .asc 1
  | ascOff => exact isFrame_frameF4 p .asc 0
  | softResetReq => exact isFrame_frameF2 p .softReset
  | readReq => exact isFrame_frameF2 p .readMeas

/-- The invariant speaks of the frame port and of the log alone. -/
theorem Inv.of_cfe_log {s t : State} (hs : Inv s) (hcfe : t.cfe = s.cfe) (hlog : t.log = s.log) : Inv t :=
  ⟨hcfe ▸ hs.frame, hlog ▸ hs.log⟩

/-- The invariant's part on the log is kept by one more whole call. -/
theorem Inv.of_log_append {s t : State} {call : TransportCall} (hs : Inv s) (hcfe : t.cfe = s.cfe)
    (hlog : t.log = s.log ++ [call]) (hcall : CallWhole call) : Inv t := by
  refine ⟨hcfe ▸ hs.frame, fun c hc => ?_⟩
  rw [hlog, List.mem_append, List.mem_singleton] at hc
  rcases hc with hold | rfl
  · exact hs.log c hold
  · exact hcall

theorem Inv.driveFrame {s : State} {f : List Byte} {n : Nat} (hs : Inv s) (hf : IsFrame Config.opcodes f)
    (hn : n = f.length) : Inv (s.driveFrame f n) := by
  refine ⟨fun o ho => ?_, hs.log⟩
  cases ho
  exact ⟨hf, hn⟩

theorem Inv.withRequests {s : State} (hs : Inv s) (q : List Request) : Inv (s.withRequests q) := hs.of_cfe_log rfl rfl

theorem Inv.driveMeasurement {s : State} (hs : Inv s) (o : MrdOutput) : Inv (s.driveMeasurement o) :=
  hs.of_cfe_log rfl rfl

theorem Inv.fillRx {s : State} (hs : Inv s) (bytes : List Byte) : Inv (s.fillRx bytes) := hs.of_cfe_log rfl rfl

theorem Inv.giveResult {s : State} (hs : Inv s) (r : HostResult) : Inv (s.giveResult r) := hs.of_cfe_log rfl rfl

theorem Inv.afterWrite {s : State} {f : List Byte} (hs : Inv s) (hf : IsFrame Config.opcodes f) :
    Inv (s.afterWrite f) := hs.of_log_append rfl rfl ⟨rfl, hf⟩

theorem Inv.afterRead {s : State} (hs : Inv s) : Inv s.afterRead := hs.of_log_append rfl rfl ⟨rfl, rfl⟩

/-- What a `WR` writes is the whole frame at the port (R24, R100). -/
theorem Inv.take_frameLen {s : State} {o : CfeOutput} (hs : Inv s) (ho : s.cfe = some o) :
    o.frame.take o.frameLen = o.frame := by
  rw [(hs.frame o ho).right, List.take_length]

theorem sendCommand_keeps_inv {c : Pseudo} {s t : State} (hs : Inv s) (h : sendCommand c s = .next t) : Inv t := by
  have hf := isFrame_pseudo Config.opcodes c
  cases (sendCommand_next c s).symm.trans h
  exact ((hs.driveFrame hf rfl).afterWrite hf).giveResult _

theorem facadeRead_keeps_inv {s t : State} (hs : Inv s) (h : facadeRead s = .next t) : Inv t := by
  have hf := isFrame_frameF2 Config.opcodes .readMeas
  have hwritten := (hs.driveFrame hf rfl).afterWrite hf
  rcases facadeRead_cases s with ⟨e, -, he⟩ | ⟨e, -, -, he⟩ | ⟨o, -, -, -, he⟩
  · cases he.symm.trans h
    exact hwritten.giveResult _
  · cases he.symm.trans h
    exact hwritten.afterRead.giveResult _
  · cases he.symm.trans h
    exact (hwritten.afterRead.driveMeasurement o).giveResult _

theorem runFacade_keeps_inv {op : FacadeOp} {s t : State} (hs : Inv s) (h : runFacade op s = .next t) : Inv t := by
  rcases op.read_or_command with rfl | ⟨c, hc⟩
  · exact facadeRead_keeps_inv hs h
  · exact sendCommand_keeps_inv hs ((runFacade_of_command hc s).symm.trans h)

/-- Every request of the host keeps the invariant. -/
theorem serve_keeps_inv {r : Request} {s t : State} (hs : Inv s) (h : serve r s = .next t) : Inv t := by
  cases r with
  | cfe sel withArg a =>
    rcases serve_cfe_cases sel withArg a s with ⟨c, -, -, he⟩ | ⟨c, -, -, he⟩ | ⟨-, he⟩
    · cases he.symm.trans h
      exact hs.driveFrame (isFrame_frameF2 _ c) rfl
    · cases he.symm.trans h
      exact hs.driveFrame (isFrame_frameF4 _ c a) rfl
    · cases he.symm.trans h
  | mrd =>
    rcases serve_mrd_cases s with ⟨-, o, -, he⟩ | ⟨-, he⟩
    · cases he.symm.trans h
      exact hs.driveMeasurement o
    · cases he.symm.trans h
  | wr =>
    rcases serve_wr_cases s with ⟨o, ho, he⟩ | ⟨-, he⟩
    · cases he.symm.trans h
      rw [hs.take_frameLen ho]
      exact hs.afterWrite (hs.frame o ho).left
    · cases he.symm.trans h
  | rd =>
    cases (serve_rd s).symm.trans h
    exact hs.afterRead
  | fill bytes =>
    cases (serve_fill bytes s).symm.trans h
    exact hs.fillRx bytes
  | facade op => exact runFacade_keeps_inv hs h

/-- Settles O36: no frame and no call is there after reset. -/
theorem invariantHoldsAtReset : Obligations.InvariantHoldsAtReset := by
  refine ⟨fun o ho => ?_, fun c hc => ?_⟩
  · cases ho
  · cases hc

/-- Settles O37: a step waits or serves its first request, and every request keeps the invariant. -/
theorem everyStepKeepsTheInvariant : Obligations.EveryStepKeepsTheInvariant := by
  intro s t hs h
  cases hq : s.requests with
  | nil =>
    cases (step_of_nil hq).symm.trans h
    exact hs
  | cons r rest => exact serve_keeps_inv (hs.withRequests rest) ((step_of_cons hq).symm.trans h)

end Sys2Proof.Machine
end

section
/-! Frames, idempotence and the order of requests (20_memory.md). The key facts: an instruction that answers a next state has driven its
own unit's ports, with the same values from every state (`exec_next_cases`); and serving a request leaves the pending requests as they
are (`serve_keeps_requests`), so that a step takes off the first and nothing else. -/

namespace Sys2Proof.Machine

/-! ## What an instruction that answers a next state has done (R30, R40, R61, R75) -/

/-- A CFE instruction has driven the frame port, a `DEC` the measurement ports, each with values that no state changes. -/
theorem exec_next_cases {i : Instr} {s t : State} (h : exec i s = .next t) :
    (i.format ≠ .r18 ∧ ∃ f n, t = s.driveFrame f n ∧ ∀ u, exec i u = .next (u.driveFrame f n)) ∨
    (i.format = .r18 ∧ ∃ o, t = s.driveMeasurement o ∧ ∀ u, exec i u = .next (u.driveMeasurement o)) := by
  by_cases hi : i.format = .r18
  · obtain ⟨rx, rfl⟩ := Instr.eq_dec hi
    by_cases hl : rx.length = 18
    · obtain ⟨o, ho⟩ := exec_dec_of_length hl
      cases (ho s).symm.trans h
      exact .inr ⟨hi, o, rfl, ho⟩
    · cases (exec_dec_of_length_ne hl s).symm.trans h
  · obtain ⟨f, n, hf⟩ := exec_of_format_ne_r18 hi
    cases (hf s).symm.trans h
    exact .inl ⟨hi, f, n, rfl, hf⟩

/-- Driving the measurement ports leaves every byte of the frame port (R26). -/
@[simp] theorem readFrameByte_driveMeasurement (k : Nat) (o : MrdOutput) (s : State) :
    readFrameByte k (s.driveMeasurement o) = readFrameByte k s := rfl

/-- Settles O26: driving one unit's ports leaves every other field. -/
theorem instructionsChangeOnlyTheirOwnPorts : Obligations.InstructionsChangeOnlyTheirOwnPorts := by
  intro i s t h
  rcases exec_next_cases h with ⟨hi, f, n, rfl, -⟩ | ⟨hi, o, rfl, -⟩
  · simp [hi]
  · simp [hi]

@[simp] theorem State.driveFrame_driveFrame (f g : List Byte) (m n : Nat) (s : State) :
    (s.driveFrame f m).driveFrame g n = s.driveFrame g n := rfl

@[simp] theorem State.driveMeasurement_driveMeasurement (o o' : MrdOutput) (s : State) :
    (s.driveMeasurement o).driveMeasurement o' = s.driveMeasurement o' := rfl

/-- Settles O28: the second evaluation drives the same values again, over those of the first. -/
theorem operationsAreIdempotent : Obligations.OperationsAreIdempotent := by
  intro i s t h
  rcases exec_next_cases h with ⟨-, f, n, rfl, hf⟩ | ⟨-, o, rfl, ho⟩
  · rw [hf, State.driveFrame_driveFrame]
  · rw [ho, State.driveMeasurement_driveMeasurement]

/-! ## No request touches the pending requests (R42, R63; logs 1, 14) -/

theorem exec_keeps_requests {i : Instr} {s t : State} (h : exec i s = .next t) : t.requests = s.requests := by
  obtain ⟨hrequests, -⟩ := instructionsChangeOnlyTheirOwnPorts i s t h
  exact hrequests

theorem facadeRead_keeps_requests {s t : State} (h : facadeRead s = .next t) : t.requests = s.requests := by
  rcases facadeRead_cases s with ⟨e, -, he⟩ | ⟨e, -, -, he⟩ | ⟨o, -, -, -, he⟩
  · cases he.symm.trans h
    simp
  · cases he.symm.trans h
    simp
  · cases he.symm.trans h
    simp

theorem sendCommand_keeps_requests {c : Pseudo} {s t : State} (h : sendCommand c s = .next t) :
    t.requests = s.requests := by
  cases (sendCommand_next c s).symm.trans h
  simp

theorem runFacade_keeps_requests {op : FacadeOp} {s t : State} (h : runFacade op s = .next t) :
    t.requests = s.requests := by
  rcases op.read_or_command with rfl | ⟨c, hc⟩
  · exact facadeRead_keeps_requests h
  · exact sendCommand_keeps_requests ((runFacade_of_command hc s).symm.trans h)

/-- Serving a request asks for nothing more and drops nothing, also where a transport call fails (log 14). -/
theorem serve_keeps_requests {r : Request} {s t : State} (h : serve r s = .next t) : t.requests = s.requests := by
  cases r with
  | cfe sel withArg a =>
    rcases serve_cfe_cases sel withArg a s with ⟨c, -, -, he⟩ | ⟨c, -, -, he⟩ | ⟨-, he⟩
    · cases he.symm.trans h
      exact State.driveFrame_requests _ _ s
    · cases he.symm.trans h
      exact State.driveFrame_requests _ _ s
    · cases he.symm.trans h
  | mrd => exact exec_keeps_requests ((serve_mrd s).symm.trans h)
  | wr =>
    rcases serve_wr_cases s with ⟨o, -, he⟩ | ⟨-, he⟩
    · cases he.symm.trans h
      exact State.afterWrite_requests _ s
    · cases he.symm.trans h
  | rd =>
    cases (serve_rd s).symm.trans h
    exact State.afterRead_requests s
  | fill bytes =>
    cases (serve_fill bytes s).symm.trans h
    exact State.fillRx_requests bytes s
  | facade op => exact runFacade_keeps_requests h

/-- Settles O35: a step waits with none pending, or takes the first request off and serves it. -/
theorem requestsAreServedInOrder : Obligations.RequestsAreServedInOrder := by
  intro s t h
  cases hq : s.requests with
  | nil =>
    cases (step_of_nil hq).symm.trans h
    exact hq
  | cons r rest => exact serve_keeps_requests ((step_of_cons hq).symm.trans h)

end Sys2Proof.Machine
end

section
/-! The opcode table's words, selectors and pseudo-instructions (30_encoding.md), and the statements about the machine that rest on them.
The key fact is `decodeWire_eq_ok`: exactly which bytes read as which instruction. Reading a written word, writing a read one, and the
set of words that read follow from it; `bigEndianBytes_toNat` carries them over to words numbered by their bits (log 12). -/

namespace Sys2Proof

/-! ## Selectors and pseudo-instructions (R53, R56, R58) -/

/-- The codes from 11 on name no command (R56). -/
theorem Command.ofSel_of_le {sel : BitVec 4} (h : 11 ≤ sel.toNat) : Command.ofSel sel = none := by
  rcases Command.ofSel_cases sel with ⟨hlt, -⟩ | ⟨-, hnone⟩
  · exact absurd h (Nat.not_le.mpr hlt)
  · exact hnone

/-- Settles O3: each code is its command's own. -/
theorem selectorsNameTheElevenCommands : Obligations.SelectorsNameTheElevenCommands :=
  ⟨Command.ofSel_sel .start, Command.ofSel_sel .stop, Command.ofSel_sel .setInterval, Command.ofSel_sel .dataReady,
    Command.ofSel_sel .readMeas, Command.ofSel_sel .asc, Command.ofSel_sel .frc, Command.ofSel_sel .tempOffset,
    Command.ofSel_sel .altitude, Command.ofSel_sel .fwVersion, Command.ofSel_sel .softReset,
    fun _ => Command.ofSel_of_le⟩

/-- Settles O11: each expansion is an `ENC` or an `ENCA`, whose port values are known. -/
theorem pseudoInstructionsExpand : Obligations.PseudoInstructionsExpand :=
  ⟨encodePorts_enca .start 0, encodePorts_enca .start, encodePorts_enca .asc 1, encodePorts_enca .asc 0,
    encodePorts_enc .softReset, encodePorts_enc .readMeas⟩

/-! ## The table words of the three operations (R48, R49, R50) -/

@[simp] theorem encode_enc (p : OpcodeParams) (c : Command) : encode p (.enc c) = be16Bytes (opcode p c) := by
  simp [encode]

@[simp] theorem encode_enca (p : OpcodeParams) (c : Command) (a : Half) :
    encode p (.enca c a) = be16Bytes (opcode p c) ++ be16Bytes a := by simp [encode]

@[simp] theorem encode_dec (p : OpcodeParams) (rx : List Byte) : encode p (.dec rx) = rx := rfl

@[simp] theorem be16Bytes_length (v : Half) : (be16Bytes v).length = 2 := rfl

@[simp] theorem Instr.wellFormed_dec (rx : List Byte) : (Instr.dec rx).wellFormed = true ↔ rx.length = 18 := by
  simp [Instr.wellFormed, Config.respLen]

/-- Settles O7, by the three operations' words. -/
theorem wordsHaveTheirFormatsLength : Obligations.WordsHaveTheirFormatsLength := by
  intro p i hi
  rcases i.eq_enc_or_enca_or_dec with ⟨c, rfl⟩ | ⟨c, a, rfl⟩ | ⟨rx, rfl⟩
  · simp [Format.bytes]
  · simp [Format.bytes]
  · simpa [Format.bytes] using hi

/-- Two bytes are the bytes of one half (R14). -/
theorem exists_be16Bytes_eq {bytes : List Byte} (h : bytes.length = 2) : ∃ v, be16Bytes v = bytes := by
  obtain ⟨hi, lo, rfl⟩ := List.length_eq_two.mp h
  exact ⟨be16 hi lo, be16Bytes_be16 hi lo⟩

/-! ## The reverse lookup of an opcode (R54, D25, log 11) -/

/-- The lookup finds a command, of the same opcode, wherever there is one. -/
theorem exists_commandOf_opcode (p : OpcodeParams) (c : Command) :
    ∃ c', commandOf p (opcode p c) = some c' ∧ opcode p c' = opcode p c := by
  have hfound : (commandOf p (opcode p c)).isSome := List.find?_isSome.mpr ⟨c, mem_lookupOrder c, beq_self_eq_true _⟩
  obtain ⟨c', hc'⟩ := Option.isSome_iff_exists.mp hfound
  exact ⟨c', hc', opcode_of_commandOf hc'⟩

/-- Where the opcodes differ, the lookup finds the command itself (D25). -/
theorem commandOf_opcode {p : OpcodeParams} (hp : p.Distinct) (c : Command) : commandOf p (opcode p c) = some c := by
  obtain ⟨c', hfound, hop⟩ := exists_commandOf_opcode p c
  rw [hfound, List.inj_on_of_nodup_map hp (mem_lookupOrder c') (mem_lookupOrder c) hop]

/-- START is tried first, so it is found in every build (log 11). -/
theorem commandOf_opcode_start (p : OpcodeParams) : commandOf p (opcode p .start) = some .start := by
  simp [commandOf, lookupOrder]

/-- ASC is tried second, and START's opcode is another, so it is found in every build (log 11). -/
theorem commandOf_opcode_asc (p : OpcodeParams) : commandOf p (opcode p .asc) = some .asc := by
  simp [commandOf, lookupOrder]

/-! ## Which bytes read as which instruction (R48, R49, R50, R56, R57) -/

theorem decodeWire_be16Bytes {p : OpcodeParams} {op : Half} {i : Instr} :
    decodeWire p (be16Bytes op) = .ok i ↔ ∃ c, commandOf p op = some c ∧ i = .enc c := by
  have hread : decodeWire p (be16Bytes op) =
      (commandOf p op).elim (.error (.unknownOpcode op)) fun c => .ok (.enc c) := by
    simp only [decodeWire, be16Bytes, be16_hi8_lo8]
    cases commandOf p op <;> rfl
  rw [hread]
  cases commandOf p op <;> simp [eq_comm]

theorem decodeWire_be16Bytes_append {p : OpcodeParams} {op a : Half} {i : Instr} :
    decodeWire p (be16Bytes op ++ be16Bytes a) = .ok i ↔ ∃ c, commandOf p op = some c ∧ i = .enca c a := by
  have hread : decodeWire p (be16Bytes op ++ be16Bytes a) =
      (commandOf p op).elim (.error (.unknownOpcode op)) fun c => .ok (.enca c a) := by
    simp only [decodeWire, be16Bytes, List.cons_append, List.nil_append, be16_hi8_lo8]
    cases commandOf p op <;> rfl
  rw [hread]
  cases commandOf p op <;> simp [eq_comm]

/-- Every 18 bytes are a response (R50, R56). -/
theorem decodeWire_of_length {p : OpcodeParams} {bytes : List Byte} (h : bytes.length = 18) :
    decodeWire p bytes = .ok (.dec bytes) := by
  unfold decodeWire
  split
  · simp at h
  · simp at h
  · exact if_pos (by simp [h, Config.respLen])

/-- A byte sequence reads as an `ENC` of its two bytes, as an `ENCA` of its four, or as a `DEC` of its eighteen. -/
theorem decodeWire_eq_ok {p : OpcodeParams} {bytes : List Byte} {i : Instr} :
    decodeWire p bytes = .ok i ↔
      (∃ c, commandOf p (opcode p c) = some c ∧ bytes = be16Bytes (opcode p c) ∧ i = .enc c) ∨
      (∃ c a, commandOf p (opcode p c) = some c ∧ bytes = be16Bytes (opcode p c) ++ be16Bytes a ∧ i = .enca c a) ∨
      (bytes.length = 18 ∧ i = .dec bytes) := by
  constructor
  · intro h
    rcases length_of_decodeWire h with hl | hl | hl
    · obtain ⟨op, rfl⟩ := exists_be16Bytes_eq hl
      obtain ⟨c, hc, rfl⟩ := decodeWire_be16Bytes.mp h
      cases opcode_of_commandOf hc
      exact .inl ⟨c, hc, rfl, rfl⟩
    · obtain ⟨op, hop⟩ := exists_be16Bytes_eq (bytes := bytes.take 2) (by simp [hl])
      obtain ⟨a, ha⟩ := exists_be16Bytes_eq (bytes := bytes.drop 2) (by simp [hl])
      have hbytes : bytes = be16Bytes op ++ be16Bytes a := by rw [hop, ha, List.take_append_drop]
      rw [hbytes] at h
      obtain ⟨c, hc, rfl⟩ := decodeWire_be16Bytes_append.mp h
      cases opcode_of_commandOf hc
      exact .inr (.inl ⟨c, a, hc, hbytes, rfl⟩)
    · cases (decodeWire_of_length hl).symm.trans h
      exact .inr (.inr ⟨hl, rfl⟩)
  · rintro (⟨c, hc, rfl, rfl⟩ | ⟨c, a, hc, rfl, rfl⟩ | ⟨hl, rfl⟩)
    · exact decodeWire_be16Bytes.mpr ⟨c, hc, rfl⟩
    · exact decodeWire_be16Bytes_append.mpr ⟨c, hc, rfl⟩
    · exact decodeWire_of_length hl

/-- Settles O4: the lookup finds the command whose opcode the word begins with. -/
theorem decodingAnEncodedInstructionGivesItBack : Obligations.DecodingAnEncodedInstructionGivesItBack := by
  intro p hp i hi
  rw [decodeWire_eq_ok]
  rcases i.eq_enc_or_enca_or_dec with ⟨c, rfl⟩ | ⟨c, a, rfl⟩ | ⟨rx, rfl⟩
  · exact .inl ⟨c, commandOf_opcode hp c, encode_enc p c, rfl⟩
  · exact .inr (.inl ⟨c, a, commandOf_opcode hp c, encode_enca p c a, rfl⟩)
  · exact .inr (.inr ⟨(Instr.wellFormed_dec rx).mp hi, rfl⟩)

/-- Settles O5, by the three ways bytes read as an instruction. -/
theorem encodingADecodedWordGivesItBack : Obligations.EncodingADecodedWordGivesItBack := by
  intro p bytes i h
  rcases decodeWire_eq_ok.mp h with ⟨c, -, rfl, rfl⟩ | ⟨c, a, -, rfl, rfl⟩ | ⟨hl, rfl⟩
  · exact ⟨encode_enc p c, Instr.wellFormed_enc c⟩
  · exact ⟨encode_enca p c a, Instr.wellFormed_enca c a⟩
  · exact ⟨rfl, (Instr.wellFormed_dec bytes).mpr hl⟩

/-- Settles O6: where two commands share an opcode, the word reads as the one the lookup finds. -/
theorem onlyThreeFormatsAreRead : Obligations.OnlyThreeFormatsAreRead := by
  intro p bytes
  constructor
  · rintro ⟨i, h⟩
    rcases decodeWire_eq_ok.mp h with ⟨c, -, rfl, -⟩ | ⟨c, a, -, rfl, -⟩ | ⟨hl, -⟩
    · exact .inr ⟨c, .inl rfl, rfl⟩
    · exact .inr ⟨c, .inr rfl, rfl⟩
    · exact .inl hl
  · rintro (hl | ⟨c, hl, htake⟩)
    · exact ⟨.dec bytes, decodeWire_of_length hl⟩
    · obtain ⟨c', hc', -⟩ := exists_commandOf_opcode p c
      have hbytes : bytes = be16Bytes (opcode p c) ++ bytes.drop 2 :=
        (List.take_append_drop 2 bytes).symm.trans (congrArg (· ++ bytes.drop 2) htake)
      rcases hl with hl | hl
      · have hdrop : bytes.drop 2 = [] := List.drop_eq_nil_of_le hl.le
        rw [hdrop, List.append_nil] at hbytes
        exact ⟨.enc c', hbytes ▸ decodeWire_be16Bytes.mpr ⟨c', hc', rfl⟩⟩
      · obtain ⟨a, ha⟩ := exists_be16Bytes_eq (bytes := bytes.drop 2) (by simp [hl])
        rw [← ha] at hbytes
        exact ⟨.enca c' a, hbytes ▸ decodeWire_be16Bytes_append.mpr ⟨c', hc', rfl⟩⟩

/-! ## Table words by their bit numbers (R49, R50; log 12) -/

/-- A number's bytes are its bits by eight, the high ones first (R32). -/
theorem bigEndianBytes_toNat {w : Nat} (V : BitVec w) (n : Nat) :
    bigEndianBytes n V.toNat = (List.range n).map fun k => V.extractLsb' (8 * (n - 1 - k)) 8 := by
  induction n with
  | zero => rfl
  | succ n ih =>
    have hhead : BitVec.ofNat 8 (V.toNat / 256 ^ n) = V.extractLsb' (8 * n) 8 := by
      rw [extractLsb'_eq_ofNat, pow_mul]
      rfl
    have hindex : ∀ k, n - 1 - k = n - (k + 1) := by omega
    simp [bigEndianBytes, List.range_succ_eq_map, hhead, ih, hindex]

/-- `W2 = opcode` (R49). -/
theorem bigEndianBytes_half (v : Half) : bigEndianBytes 2 v.toNat = be16Bytes v :=
  bigEndianBytes_toNat v 2

/-- `W4 = opcode || arg` (R49). -/
theorem bigEndianBytes_append (v a : Half) :
    bigEndianBytes 4 (v ++ a : BitVec 32).toNat = be16Bytes v ++ be16Bytes a := by
  have hv0 : (v ++ a).extractLsb' 24 8 = hi8 v := BitVec.extractLsb'_append_eq_of_le (by decide)
  have hv1 : (v ++ a).extractLsb' 16 8 = lo8 v := BitVec.extractLsb'_append_eq_of_le (by decide)
  have ha0 : (v ++ a).extractLsb' 8 8 = hi8 a := BitVec.extractLsb'_append_eq_of_add_le (by decide)
  have ha1 : (v ++ a).extractLsb' 0 8 = lo8 a := BitVec.extractLsb'_append_eq_of_add_le (by decide)
  calc bigEndianBytes 4 (v ++ a : BitVec 32).toNat
      = [(v ++ a).extractLsb' 24 8, (v ++ a).extractLsb' 16 8, (v ++ a).extractLsb' 8 8, (v ++ a).extractLsb' 0 8] :=
        bigEndianBytes_toNat (v ++ a) 4
    _ = be16Bytes v ++ be16Bytes a := by rw [hv0, hv1, ha0, ha1]; rfl

/-- A 16-bit word reads as the `ENC` of the command its opcode is looked up to (R49). -/
theorem readTableWord_opcode {p : OpcodeParams} {c : Command} (h : commandOf p (opcode p c) = some c) :
    readTableWord p 16 (opcode p c).toNat = some (.enc c) := by
  have hread : decodeWire p (bigEndianBytes 2 (opcode p c).toNat) = .ok (.enc c) := by
    rw [bigEndianBytes_half, decodeWire_be16Bytes]
    exact ⟨c, h, rfl⟩
  exact readTableWord_eq_some.mpr ⟨rfl, hread⟩

/-- A 32-bit word reads as the `ENCA` of that command and of the word's low half (R49). -/
theorem readTableWord_opcode_append {p : OpcodeParams} {c : Command} (h : commandOf p (opcode p c) = some c)
    (a : Half) : readTableWord p 32 (opcode p c ++ a : BitVec 32).toNat = some (.enca c a) := by
  have hread : decodeWire p (bigEndianBytes 4 (opcode p c ++ a : BitVec 32).toNat) = .ok (.enca c a) := by
    rw [bigEndianBytes_append, decodeWire_be16Bytes_append]
    exact ⟨c, h, rfl⟩
  exact readTableWord_eq_some.mpr ⟨rfl, hread⟩

/-- A 144-bit word reads as the `DEC` of its 18 bytes, the high ones first (R50). -/
theorem readTableWord_response (p : OpcodeParams) (V : BitVec 144) :
    readTableWord p 144 V.toNat = some (.dec ((List.range 18).map fun i => V.extractLsb' (136 - 8 * i) 8)) := by
  have hbytes : bigEndianBytes 18 V.toNat = (List.range 18).map fun i => V.extractLsb' (136 - 8 * i) 8 :=
    bigEndianBytes_toNat V 18
  have hread := decodeWire_of_length (p := p) (bigEndianBytes_length 18 V.toNat)
  rw [← hbytes]
  exact readTableWord_eq_some.mpr ⟨rfl, hread⟩

/-- Only words of 2, 4 and 18 bytes read (R48; log 12). -/
theorem readTableWord_eq_none {p : OpcodeParams} {nbits w : Nat} (h2 : nbits ≠ 16) (h4 : nbits ≠ 32)
    (h18 : nbits ≠ 144) : readTableWord p nbits w = none := by
  rw [Option.eq_none_iff_forall_ne_some]
  intro i hi
  obtain ⟨hwhole, hread⟩ := readTableWord_eq_some.mp hi
  have hlen := length_of_decodeWire hread
  rw [bigEndianBytes_length] at hlen
  omega

/-- Settles O52: the words' bytes are those of opcode, argument and response, and the lookup finds the command. -/
theorem tableWordsReadByTheirBitNumbers : Obligations.TableWordsReadByTheirBitNumbers :=
  ⟨fun _ hp c a => ⟨readTableWord_opcode (commandOf_opcode hp c), readTableWord_opcode_append (commandOf_opcode hp c) a⟩,
    readTableWord_response,
    fun a => ⟨readTableWord_opcode_append (commandOf_opcode_start Config.opcodes) a,
      readTableWord_opcode_append (commandOf_opcode_asc Config.opcodes) a⟩,
    fun _ _ _ => readTableWord_eq_none⟩

/-- Settles O10: the words are those of START and of ASC, with their arguments, and of a response. -/
theorem wordsReadAsTheirInstructions : Obligations.WordsReadAsTheirInstructions :=
  ⟨readTableWord_opcode (commandOf_opcode_start Config.opcodes),
    readTableWord_opcode_append (commandOf_opcode_start Config.opcodes) 1013,
    readTableWord_opcode (commandOf_opcode_asc Config.opcodes),
    readTableWord_opcode_append (commandOf_opcode_asc Config.opcodes) 1,
    readTableWord_response Config.opcodes 0x000102030405060708090A0B0C0D0E0F1011⟩

end Sys2Proof

namespace Sys2Proof.Machine

/-! ## The block's outputs against the format (R48, R49, R52, R76) -/

/-- Settles O17: the frame an `ENC` or an `ENCA` drives is its table word. -/
theorem drivenFrameIsTheTableWord : Obligations.DrivenFrameIsTheTableWord := by
  intro i s hi
  rcases Instr.eq_enc_or_enca hi with ⟨c, rfl⟩ | ⟨c, a, rfl⟩
  · rw [exec_enc, encode_enc, Instr.format_enc]
    rfl
  · rw [exec_enca, encode_enca, Instr.format_enca]
    rfl

/-- A response's fields and check bytes, by index (R50, R52, R76, R83). -/
theorem decodeResponse_eq_some {rx : List Byte} (h : rx.length = 18) :
    decodeResponse rx = some {
      co2 := be32 rx[0] rx[1] rx[3] rx[4]
      temperature := be32 rx[6] rx[7] rx[9] rx[10]
      humidity := be32 rx[12] rx[13] rx[15] rx[16]
      chk := #v[rx[2], rx[5], rx[8], rx[11], rx[14], rx[17]] } := by
  match rx, h with
  | [_, _, _, _, _, _, _, _, _, _, _, _, _, _, _, _, _, _], _ => rfl

/-- `DEC` drives the measurement its response decodes to (R75). -/
theorem exec_dec_of_decodeResponse {rx : List Byte} {o : MrdOutput} (h : decodeResponse rx = some o) (s : State) :
    exec (.dec rx) s = .next (s.driveMeasurement o) := by simp [exec, execDec, decOp, h]

/-- Settles O21: response word `k` begins at index `6 k`. -/
theorem fieldsAndCheckBytesByIndex : Obligations.FieldsAndCheckBytesByIndex := by
  intro rx s hl
  refine ⟨_, exec_dec_of_decodeResponse (decodeResponse_eq_some hl) s, fun k => ?_⟩
  have hbyte : ∀ j, (hj : j < 6) → rx[6 * k.val + j]? = some rx[6 * k.val + j] := fun j _ => List.getElem?_eq_getElem _
  refine ⟨_, _, _, _, _, _, hbyte 0 (by decide), hbyte 1 (by decide), hbyte 2 (by decide), hbyte 3 (by decide),
    hbyte 4 (by decide), hbyte 5 (by decide), ?_⟩
  match k with
  | 0 => exact ⟨rfl, rfl, rfl⟩
  | 1 => exact ⟨rfl, rfl, rfl⟩
  | 2 => exact ⟨rfl, rfl, rfl⟩

/-! ## The host's single calls and fills (R29, R58, R89) -/

/-- With a frame at the port, `WR` writes the bytes it holds (R89). -/
theorem serve_wr_of_some {s : State} {o : CfeOutput} (h : s.cfe = some o) :
    serve .wr s = .next (s.afterWrite (o.frame.take o.frameLen)) := by
  rcases serve_wr_cases s with ⟨o', ho', he⟩ | ⟨hnone, -⟩
  · cases h.symm.trans ho'
    exact he
  · cases h.symm.trans hnone

/-- Settles O40, by what serving each of the three requests does. -/
theorem rawTransportCalls : Obligations.RawTransportCalls := by
  intro s rest
  refine ⟨fun o hq ho => ?_, fun hq => ?_, fun bytes hq => ?_⟩
  · rw [step_of_cons hq, serve_wr_of_some (s := s.withRequests rest) ho]
    rfl
  · rw [step_of_cons hq, serve_rd]
    rfl
  · rw [step_of_cons hq, serve_fill]
    rfl

/-! ## The facade's frames (R55, R99) -/

/-- A frame of one of the facade's four commands, in the form the source names for it (R55). -/
def IsDriverFrame (p : OpcodeParams) (c : Command) (f : List Byte) : Prop :=
  (c = .softReset ∨ c = .start ∨ c = .asc ∨ c = .readMeas) ∧
  ((c.driverForm = some .f2 ∧ f = frameF2 p c) ∨ (c.driverForm = some .f4 ∧ ∃ a, f = frameF4 p c a))

theorem isDriverFrame_readMeas (p : OpcodeParams) : IsDriverFrame p .readMeas (frameF2 p .readMeas) :=
  ⟨.inr (.inr (.inr rfl)), .inl ⟨rfl, rfl⟩⟩

/-- START is sent with an argument. -/
theorem isDriverFrame_start (p : OpcodeParams) (a : Half) : IsDriverFrame p .start (frameF4 p .start a) :=
  ⟨.inr (.inl rfl), .inr ⟨rfl, a, rfl⟩⟩

/-- ASC is sent with an argument. -/
theorem isDriverFrame_asc (p : OpcodeParams) (a : Half) : IsDriverFrame p .asc (frameF4 p .asc a) :=
  ⟨.inr (.inr (.inl rfl)), .inr ⟨rfl, a, rfl⟩⟩

theorem isDriverFrame_softReset (p : OpcodeParams) : IsDriverFrame p .softReset (frameF2 p .softReset) :=
  ⟨.inl rfl, .inl ⟨rfl, rfl⟩⟩

/-- Every pseudo-instruction's frame is one of the facade's. -/
theorem exists_isDriverFrame_pseudo (p : OpcodeParams) (c : Pseudo) : ∃ cmd, IsDriverFrame p cmd (Pseudo.frame p c) := by
  cases c with
  | startMeas => exact ⟨_, isDriverFrame_start p 0⟩
  | startMeasP a => exact ⟨_, isDriverFrame_start p a⟩
  | ascOn => exact ⟨_, isDriverFrame_asc p 1⟩
  | ascOff => exact ⟨_, isDriverFrame_asc p 0⟩
  | softResetReq => exact ⟨_, isDriverFrame_softReset p⟩
  | readReq => exact ⟨_, isDriverFrame_readMeas p⟩

/-- An operation with one write makes that call and no other (R93 to R97). -/
theorem sendCommand_log {c : Pseudo} {s t : State} (h : sendCommand c s = .next t) :
    t.log = s.log ++ [.write Config.busAddr7 (Pseudo.frame Config.opcodes c)] := by
  cases (sendCommand_next c s).symm.trans h
  rfl

/-- `read()` makes its write, and after it at most its read (R98). -/
theorem facadeRead_log {s t : State} (h : facadeRead s = .next t) :
    ∃ calls, t.log = s.log ++ .write Config.busAddr7 (frameF2 Config.opcodes .readMeas) :: calls ∧
      (calls = [] ∨ calls = [.read Config.busAddr7 18]) := by
  rcases facadeRead_cases s with ⟨e, -, he⟩ | ⟨e, -, -, he⟩ | ⟨o, -, -, -, he⟩
  · cases he.symm.trans h
    exact ⟨[], rfl, .inl rfl⟩
  · cases he.symm.trans h
    exact ⟨_, List.append_assoc _ _ _, .inr rfl⟩
  · cases he.symm.trans h
    exact ⟨_, List.append_assoc _ _ _, .inr rfl⟩

/-- Settles O48: an operation is `read()`, or sends one pseudo-instruction's frame. -/
theorem theFacadeWritesOnlyItsFourCommands : Obligations.TheFacadeWritesOnlyItsFourCommands := by
  intro s t rest op hq h
  have hserved : runFacade op (s.withRequests rest) = .next t := (step_of_cons hq).symm.trans h
  rcases op.read_or_command with rfl | ⟨c, hc⟩
  · obtain ⟨calls, hlog, hcalls⟩ := facadeRead_log hserved
    obtain ⟨hfour, hform⟩ := isDriverFrame_readMeas Config.opcodes
    exact ⟨_, _, calls, hlog, hfour, hform, hcalls.imp_right fun hread => ⟨rfl, hread⟩⟩
  · have hlog := sendCommand_log ((runFacade_of_command hc _).symm.trans hserved)
    obtain ⟨cmd, hfour, hform⟩ := exists_isDriverFrame_pseudo Config.opcodes c
    exact ⟨cmd, _, [], hlog, hfour, hform, .inl rfl⟩

end Sys2Proof.Machine
end

section
/-! The Command Frame Encoder (40_command_encoder.md). The key facts: a selector that names a command requests that command's `ENC` or
`ENCA` (`serve_enc_of_ofSel`, `serve_enca_of_ofSel`), any other is refused (`serve_cfe_of_le`); what the two operations drive is known
for all commands at once (`exec_enc`, `exec_enca`), and so for each of the eleven. -/

namespace Sys2Proof.Machine

/-! ## Serving a CFE request by its selector (R53, R56, R59, R60) -/

/-- A selector that names a command requests that command, in the form `with_arg` selects (R23, R53). -/
theorem serve_cfe_of_ofSel {sel : BitVec 4} {c : Command} (h : Command.ofSel sel = some c) (withArg : Bool) (a : Half)
    (s : State) : serve (.cfe sel withArg a) s = exec (if withArg then .enca c a else .enc c) s := by
  have hd : decodePorts (.cfe sel withArg a) = .ok (if withArg then .enca c a else .enc c) := by simp [decodePorts, h]
  rw [serve_cfe, evalPorts_of_decodePorts hd]

/-- An `ENC` request drives the named command's bare opcode (R59). -/
theorem serve_enc_of_ofSel {sel : BitVec 4} {c : Command} (h : Command.ofSel sel = some c) (a : Half) (s : State) :
    serve (.cfe sel false a) s = .next (s.driveFrame (frameF2 Config.opcodes c) 2) := by
  rw [serve_cfe_of_ofSel h, if_neg Bool.false_ne_true, exec_enc]

/-- An `ENCA` request drives the named command's opcode and the argument (R60). -/
theorem serve_enca_of_ofSel {sel : BitVec 4} {c : Command} (h : Command.ofSel sel = some c) (a : Half) (s : State) :
    serve (.cfe sel true a) s = .next (s.driveFrame (frameF4 Config.opcodes c a) 4) := by
  rw [serve_cfe_of_ofSel h, if_pos rfl, exec_enca]

/-- A selector from 11 on is refused in either form (R56, R103). -/
theorem serve_cfe_of_le {sel : BitVec 4} (h : 11 ≤ sel.toNat) (withArg : Bool) (a : Half) (s : State) :
    serve (.cfe sel withArg a) s = .refused (.reservedSelector sel) := by
  simp [serve, evalPorts, decodePorts, Command.ofSel_of_le h, Refusal.ofPorts]

/-- Settles O12: the step serves the request, which the selector decides. -/
theorem encRequestDrivesTheBareOpcode : Obligations.EncRequestDrivesTheBareOpcode := by
  intro s rest sel a hq
  rw [step_of_cons hq]
  exact ⟨fun hle => serve_cfe_of_le hle false a _, fun _ hc => serve_enc_of_ofSel hc a _⟩

/-- Settles O13: the step serves the request, which the selector decides. -/
theorem encaRequestDrivesOpcodeAndArgument : Obligations.EncaRequestDrivesOpcodeAndArgument := by
  intro s rest sel a hq
  rw [step_of_cons hq]
  exact ⟨fun hle => serve_cfe_of_le hle true a _, fun _ hc => serve_enca_of_ofSel hc a _⟩

/-! ## The eleven commands (R64 to R74) -/

/-- Settles O14: it is R59, command by command. -/
theorem everyEncCompletes : Obligations.EveryEncCompletes :=
  fun s => ⟨exec_enc .start s, exec_enc .stop s, exec_enc .setInterval s, exec_enc .dataReady s, exec_enc .readMeas s,
    exec_enc .asc s, exec_enc .frc s, exec_enc .tempOffset s, exec_enc .altitude s, exec_enc .fwVersion s,
    exec_enc .softReset s⟩

/-- Settles O15: it is R60, command by command. -/
theorem everyEncaCompletes : Obligations.EveryEncaCompletes :=
  fun s a => ⟨exec_enca .start a s, exec_enca .stop a s, exec_enca .setInterval a s, exec_enca .dataReady a s,
    exec_enca .readMeas a s, exec_enca .asc a s, exec_enca .frc a s, exec_enca .tempOffset a s, exec_enca .altitude a s,
    exec_enca .fwVersion a s, exec_enca .softReset a s⟩

/-! ## The frames of START and of ASC (R64, R69) -/

theorem frameF2_start (p : OpcodeParams) : frameF2 p .start = [0x00, 0x10] := by
  rw [frameF2, opcode_start]
  decide

theorem frameF2_asc (p : OpcodeParams) : frameF2 p .asc = [0x53, 0x06] := by
  rw [frameF2, opcode_asc]
  decide

/-- An F4 frame is the F2 frame of the same command, then the argument (R49, R51). -/
theorem frameF4_eq_append (p : OpcodeParams) (c : Command) (a : Half) :
    frameF4 p c a = frameF2 p c ++ be16Bytes a := rfl

theorem frameF4_start (p : OpcodeParams) (a : Half) : frameF4 p .start a = [0x00, 0x10, hi8 a, lo8 a] := by
  rw [frameF4_eq_append, frameF2_start]
  rfl

theorem frameF4_asc (p : OpcodeParams) (a : Half) : frameF4 p .asc a = [0x53, 0x06, hi8 a, lo8 a] := by
  rw [frameF4_eq_append, frameF2_asc]
  rfl

/-- Settles O16: what `ENC` and `ENCA` drive, with the bytes of the two known opcodes. -/
theorem startAndAscFramesAreTheSourcesBytes : Obligations.StartAndAscFramesAreTheSourcesBytes := by
  intro s a
  have hstart := exec_enc .start s
  have hstartArg := exec_enca .start a s
  have hasc := exec_enc .asc s
  have hascArg := exec_enca .asc a s
  rw [frameF2_start] at hstart
  rw [frameF4_start] at hstartArg
  rw [frameF2_asc] at hasc
  rw [frameF4_asc] at hascArg
  exact ⟨hstart, hstartArg, hasc, hascArg⟩

/-! ## The two forms of one command (95_test_vectors.md V-L2-E6) -/

/-- The first two bytes of an F4 frame are the F2 frame of the same command. -/
theorem frameF4_take_two (p : OpcodeParams) (c : Command) (a : Half) : (frameF4 p c a).take 2 = frameF2 p c := by
  rw [frameF4_eq_append, List.take_left' (frameF2_length p c)]

/-- Settles O19: both forms complete, and the opcode comes first in both. -/
theorem encIsTheFirstHalfOfEnca : Obligations.EncIsTheFirstHalfOfEnca :=
  fun c a s => ⟨_, _, exec_enc c s, exec_enca c a s, (frameF4_take_two Config.opcodes c a).symm,
    frameF2_length Config.opcodes c, frameF4_length Config.opcodes c a⟩

end Sys2Proof.Machine
end

section
/-! The Measurement Response Decoder (41_measurement_decoder.md). The key facts: blanking a response's check bytes leaves its fields as
they are (`decodeResponse_blankChecks`), so responses that differ in check bytes only give the same measurement; and two states that
differ in check bytes only still do after the same update of both and after the same request (`serve_sameButChecks`), so a run of any
length keeps the relation. It is carried through `andThen`, `wrThen` and `rdThen` once each, and every operation is made of those. -/

namespace Sys2Proof.Machine

/-! ## What `DEC` drives (R75, R84, R85) -/

/-- Settles O20: the 18 bytes decode as written out. -/
theorem decDrivesFieldsAndCheckBytes : Obligations.DecDrivesFieldsAndCheckBytes := by
  intro s b0 b1 b2 b3 b4 b5 b6 b7 b8 b9 b10 b11 b12 b13 b14 b15 b16 b17
  exact exec_dec_of_decodeResponse rfl s

/-- Settles O22: the outputs of `DEC` are given before the state is. -/
theorem decIsTotalAndPure : Obligations.DecIsTotalAndPure :=
  fun _ hl => exec_dec_of_length hl

/-- Decoding is the inverse of laying three patterns and six check bytes out as a response (R50, R85). -/
theorem decodeResponse_responseOf (w0 w1 w2 : FloatBits) (c0 c1 c2 c3 c4 c5 : Byte) :
    decodeResponse (responseOf w0 w1 w2 c0 c1 c2 c3 c4 c5) =
      some { co2 := w0, temperature := w1, humidity := w2, chk := #v[c0, c1, c2, c3, c4, c5] } := by
  simp [responseOf, responseWord, decodeResponse]

/-- Settles O25: the response decodes to the patterns it was laid out from. -/
theorem everyPatternPassesThroughUnchanged : Obligations.EveryPatternPassesThroughUnchanged := by
  intro s w0 w1 w2 c0 c1 c2 c3 c4 c5
  exact exec_dec_of_decodeResponse (decodeResponse_responseOf w0 w1 w2 c0 c1 c2 c3 c4 c5) s

/-! ## Blanked check bytes (R81) -/

/-- The blanked bytes are those whose index leaves 2 by 3, and no other byte changes. -/
theorem getElem_blankChecks (l : List Byte) (i : Nat) (h : i < (blankChecks l).length) :
    (blankChecks l)[i] = if i % 3 = 2 then 0 else l[i]'(by simpa using h) := by
  induction l using blankChecks.induct generalizing i with
  | case1 b0 b1 b2 rest ih =>
    match i with
    | 0 => rfl
    | 1 => rfl
    | 2 => rfl
    | i + 3 => simp [blankChecks, ih]
  | case2 short hshort =>
    match short, i, hshort with
    | [_], 0, _ => rfl
    | [_, _], 0, _ => rfl
    | [_, _], 1, _ => rfl
    | b0 :: b1 :: b2 :: rest, _, hshort => exact (hshort b0 b1 b2 rest rfl).elim

theorem blankChecks_eq_of_agree {l l' : List Byte} (hl : l.length = l'.length)
    (h : ∀ i, i % 3 ≠ 2 → l[i]? = l'[i]?) : blankChecks l = blankChecks l' := by
  refine List.ext_getElem (by simpa using hl) fun i hi hi' => ?_
  rw [getElem_blankChecks, getElem_blankChecks]
  split
  · rfl
  · next hmod => exact (List.getElem_eq_iff _).mpr (by simp [h i hmod])

theorem length_eq_of_blankChecks_eq {l l' : List Byte} (h : blankChecks l = blankChecks l') :
    l.length = l'.length := by
  simpa using congrArg List.length h

theorem decodeResponse_eq_none {rx : List Byte} (h : rx.length ≠ 18) : decodeResponse rx = none := by
  rcases decodeResponse_cases rx with ⟨hl, -⟩ | ⟨-, hnone⟩
  · exact absurd hl h
  · exact hnone

/-- No field reads a check byte (R81). -/
theorem decodeResponse_blankChecks (rx : List Byte) :
    (decodeResponse (blankChecks rx)).map MrdOutput.measurement = (decodeResponse rx).map MrdOutput.measurement := by
  by_cases hl : rx.length = 18
  · match rx, hl with
    | [_, _, _, _, _, _, _, _, _, _, _, _, _, _, _, _, _, _], _ => rfl
  · have hblank : (blankChecks rx).length ≠ 18 := by simpa using hl
    rw [decodeResponse_eq_none hl, decodeResponse_eq_none hblank]

/-- Responses that differ in check bytes only give the same measurement (R81). -/
theorem exists_decodeResponse_of_blankChecks_eq {rx rx' : List Byte} {o : MrdOutput}
    (hrx : blankChecks rx = blankChecks rx') (ho : decodeResponse rx = some o) :
    ∃ o', decodeResponse rx' = some o' ∧ o.measurement = o'.measurement := by
  have hfields : (decodeResponse rx').map MrdOutput.measurement = some o.measurement := by
    rw [← decodeResponse_blankChecks, ← hrx, decodeResponse_blankChecks, ho, Option.map_some]
  obtain ⟨o', ho', hm⟩ := Option.map_eq_some_iff.mp hfields
  exact ⟨o', ho', hm.symm⟩

/-- Settles O24: the two responses are equal once their check bytes are blanked. -/
theorem checkBytesContributeNoBit : Obligations.CheckBytesContributeNoBit := by
  intro rx rx' s hl hl' hagree
  have hrx := blankChecks_eq_of_agree (hl.trans hl'.symm) hagree
  have ho := decodeResponse_eq_some hl
  obtain ⟨o', ho', hm⟩ := exists_decodeResponse_of_blankChecks_eq hrx ho
  exact ⟨_, o', exec_dec_of_decodeResponse ho s, exec_dec_of_decodeResponse ho' s,
    congrArg Measurement.co2 hm, congrArg Measurement.temperature hm, congrArg Measurement.humidity hm⟩

/-! ## Each update of the state keeps "differs in check bytes only" (R81, R82) -/

section
variable {s t : State}

theorem SameButChecks.withRequests (h : SameButChecks s t) {q q' : List Request}
    (hq : q.map Request.blankChecks = q'.map Request.blankChecks) :
    SameButChecks (s.withRequests q) (t.withRequests q') := { h with requests := hq }

theorem SameButChecks.driveFrame (h : SameButChecks s t) (f : List Byte) (n : Nat) :
    SameButChecks (s.driveFrame f n) (t.driveFrame f n) := { h with cfe := rfl }

theorem SameButChecks.driveMeasurement (h : SameButChecks s t) {o o' : MrdOutput}
    (ho : o.measurement = o'.measurement) : SameButChecks (s.driveMeasurement o) (t.driveMeasurement o') :=
  { h with mrd := congrArg some ho }

theorem SameButChecks.fillRx (h : SameButChecks s t) {bytes bytes' : List Byte}
    (hb : blankChecks bytes = blankChecks bytes') : SameButChecks (s.fillRx bytes) (t.fillRx bytes') :=
  { h with rx := hb }

theorem SameButChecks.giveResult (h : SameButChecks s t) {r r' : HostResult} (hr : r = r') :
    SameButChecks (s.giveResult r) (t.giveResult r') := { h with results := by simp [h.results, hr] }

theorem SameButChecks.writeResult_eq (h : SameButChecks s t) : s.writeResult = t.writeResult := by
  rw [State.writeResult, State.writeResult, h.writeDraws, h.log]

theorem SameButChecks.afterWrite (h : SameButChecks s t) (f : List Byte) :
    SameButChecks (s.afterWrite f) (t.afterWrite f) :=
  { h with
    writeDraws := congrArg List.tail h.writeDraws
    log := by simp [h.log]
    lastCall := congrArg some h.writeResult_eq }

/-- What the next read brings, blanked, is the next of the blanked draws. -/
theorem blankDraw_readDraw (s : State) :
    blankDraw s.readDraw = (s.readDraws.map blankDraw).headD (blankDraw (Config.freeReadDraw s.log.length)) := by
  rw [State.readDraw]
  cases s.readDraws with
  | nil => rfl
  | cons d ds => rfl

/-- The next read of both runs ends alike and brings bytes that differ in check bytes only; a free draw is the same for both (log 6). -/
theorem SameButChecks.blankDraw_readDraw_eq (h : SameButChecks s t) : blankDraw s.readDraw = blankDraw t.readDraw := by
  rw [blankDraw_readDraw, blankDraw_readDraw, h.readDraws, h.log]

theorem SameButChecks.readDraw_result_eq (h : SameButChecks s t) : s.readDraw.result = t.readDraw.result :=
  congrArg Prod.fst h.blankDraw_readDraw_eq

theorem SameButChecks.afterRead (h : SameButChecks s t) : SameButChecks s.afterRead t.afterRead :=
  { h with
    rx := congrArg Prod.snd h.blankDraw_readDraw_eq
    readDraws := by simpa using congrArg List.tail h.readDraws
    log := by simp [h.log]
    lastCall := congrArg some h.readDraw_result_eq }

/-! ## What goes on after an operation keeps it too (R93, R103) -/

theorem andThen_sameButChecks {x y : Result} {k : State → Result} (hxy : SameButChecksResult x y)
    (hk : ∀ s t, SameButChecks s t → SameButChecksResult (k s) (k t)) :
    SameButChecksResult (andThen x k) (andThen y k) := by
  match x, y with
  | .next s, .next t => exact hk s t hxy
  | .refused _, .refused _ => exact hxy

/-- A `WR` writes the same frame in both, with the same outcome, or is refused in both. -/
theorem wrThen_sameButChecks {k : TransportResult → State → Result} (h : SameButChecks s t)
    (hk : ∀ r s t, SameButChecks s t → SameButChecksResult (k r s) (k r t)) :
    SameButChecksResult (wrThen s k) (wrThen t k) := by
  have hframe : readFrame s = readFrame t := by rw [readFrame, readFrame, h.cfe]
  rw [wrThen, wrThen, hframe]
  cases readFrame t with
  | ok f => exact h.writeResult_eq ▸ hk _ _ _ (h.afterWrite f)
  | error r => exact rfl

theorem rdThen_sameButChecks {k : TransportResult → State → Result} (h : SameButChecks s t)
    (hk : ∀ r s t, SameButChecks s t → SameButChecksResult (k r s) (k r t)) :
    SameButChecksResult (rdThen s k) (rdThen t k) := by
  rw [rdThen, rdThen, h.readDraw_result_eq]
  exact hk _ _ _ h.afterRead

/-! ## Instructions, facade operations and requests (R59, R60, R75, R94 to R99) -/

/-- `DEC` of responses that differ in check bytes only. -/
theorem exec_dec_sameButChecks {rx rx' : List Byte} (hrx : blankChecks rx = blankChecks rx')
    (h : SameButChecks s t) : SameButChecksResult (exec (.dec rx) s) (exec (.dec rx') t) := by
  have hlen := length_eq_of_blankChecks_eq hrx
  rcases execDec_cases rx s with ⟨-, o, ho, he⟩ | ⟨hne, he⟩
  · obtain ⟨o', ho', hm⟩ := exists_decodeResponse_of_blankChecks_eq hrx ho
    rw [he, exec_dec_of_decodeResponse ho']
    exact h.driveMeasurement hm
  · rw [he, exec_dec_of_length_ne (hlen ▸ hne)]
    exact congrArg Refusal.responseLength hlen

/-- One instruction evaluated in both states. -/
theorem exec_sameButChecks (i : Instr) (h : SameButChecks s t) : SameButChecksResult (exec i s) (exec i t) := by
  by_cases hi : i.format = .r18
  · obtain ⟨rx, rfl⟩ := Instr.eq_dec hi
    exact exec_dec_sameButChecks rfl h
  · obtain ⟨f, n, hf⟩ := exec_of_format_ne_r18 hi
    rw [hf, hf]
    exact h.driveFrame f n

theorem sendCommand_sameButChecks (c : Pseudo) (h : SameButChecks s t) :
    SameButChecksResult (sendCommand c s) (sendCommand c t) :=
  andThen_sameButChecks (exec_sameButChecks c.expand h) fun _ _ h1 =>
    wrThen_sameButChecks h1 fun _ _ _ h2 => h2.giveResult rfl

theorem readMeasurement_of_some {o : MrdOutput} (h : s.mrd = some o) : readMeasurement s = .ok o := by
  simp [readMeasurement, h]

/-- The result of `read()` holds fields only, so it is the same for both. -/
theorem decodeAndReturn_sameButChecks (h : SameButChecks s t) :
    SameButChecksResult (decodeAndReturn s) (decodeAndReturn t) := by
  refine andThen_sameButChecks (exec_dec_sameButChecks h.rx h) fun s1 t1 h1 => ?_
  have hm := h1.mrd
  cases hs : s1.mrd with
  | none =>
    rw [hs, Option.map_none, eq_comm, Option.map_eq_none_iff] at hm
    rw [readMeasurement_of_none hs, readMeasurement_of_none hm]
    exact rfl
  | some o =>
    rw [hs, Option.map_some, eq_comm, Option.map_eq_some_iff] at hm
    obtain ⟨o', ht, ho'⟩ := hm
    rw [readMeasurement_of_some hs, readMeasurement_of_some ht]
    exact h1.giveResult (congrArg HostResult.measured ho'.symm)

/-- `read()` in both states: alike through the outcomes of its two calls (R98). -/
theorem facadeRead_sameButChecks (h : SameButChecks s t) :
    SameButChecksResult (facadeRead s) (facadeRead t) := by
  refine andThen_sameButChecks (exec_sameButChecks _ h) fun s1 t1 h1 =>
    wrThen_sameButChecks h1 fun r1 s2 t2 h2 => ?_
  cases r1 with
  | err e => exact h2.giveResult rfl
  | ok =>
    refine rdThen_sameButChecks h2 fun r2 s3 t3 h3 => ?_
    cases r2 with
    | err e => exact h3.giveResult rfl
    | ok => exact decodeAndReturn_sameButChecks h3

theorem runFacade_sameButChecks (op : FacadeOp) (h : SameButChecks s t) :
    SameButChecksResult (runFacade op s) (runFacade op t) := by
  rcases op.read_or_command with rfl | ⟨c, hc⟩
  · exact facadeRead_sameButChecks h
  · rw [runFacade_of_command hc, runFacade_of_command hc]
    exact sendCommand_sameButChecks c h

/-- One request served in both states. -/
theorem serve_sameButChecks (r : Request) (h : SameButChecks s t) : SameButChecksResult (serve r s) (serve r t) := by
  cases r with
  | cfe sel withArg a =>
    rcases Command.ofSel_cases sel with ⟨-, c, hc, -⟩ | ⟨hle, -⟩
    · rw [serve_cfe_of_ofSel hc, serve_cfe_of_ofSel hc]
      exact exec_sameButChecks _ h
    · rw [serve_cfe_of_le hle, serve_cfe_of_le hle]
      exact rfl
  | mrd => exact exec_dec_sameButChecks h.rx h
  | wr => exact wrThen_sameButChecks (k := fun _ s1 => .next s1) h fun _ _ _ h1 => h1
  | rd => exact h.afterRead
  | fill bytes => exact h.fillRx rfl
  | facade op => exact runFacade_sameButChecks op h

/-! ## Steps and runs (R42, R81, R82, R88) -/

/-- Two requests that differ in check bytes only are the same request, or two fills of bytes that do. -/
theorem Request.eq_or_fill_of_blankChecks_eq {r r' : Request} (h : r.blankChecks = r'.blankChecks) :
    r = r' ∨ ∃ bytes bytes', r = .fill bytes ∧ r' = .fill bytes' ∧
      Machine.blankChecks bytes = Machine.blankChecks bytes' := by
  match r, r', h with
  | .cfe .., .cfe .., h => exact .inl h
  | .mrd, .mrd, _ => exact .inl rfl
  | .wr, .wr, _ => exact .inl rfl
  | .rd, .rd, _ => exact .inl rfl
  | .fill bytes, .fill bytes', h => exact .inr ⟨bytes, bytes', rfl, rfl, Request.fill.inj h⟩
  | .facade _, .facade _, h => exact .inl h

theorem serve_sameButChecks_of_blankChecks_eq {r r' : Request} (hr : r.blankChecks = r'.blankChecks)
    (h : SameButChecks s t) : SameButChecksResult (serve r s) (serve r' t) := by
  rcases Request.eq_or_fill_of_blankChecks_eq hr with rfl | ⟨bytes, bytes', rfl, rfl, hb⟩
  · exact serve_sameButChecks r h
  · exact h.fillRx hb

theorem step_sameButChecks (h : SameButChecks s t) : SameButChecksResult (step s) (step t) := by
  have hq := h.requests
  cases hs : s.requests with
  | nil =>
    rw [hs, List.map_nil, eq_comm, List.map_eq_nil_iff] at hq
    rw [step_of_nil hs, step_of_nil hq]
    exact h
  | cons r rest =>
    rw [hs, List.map_cons, eq_comm, List.map_eq_cons_iff] at hq
    obtain ⟨r', rest', ht, hr, hrest⟩ := hq
    rw [step_of_cons hs, step_of_cons ht]
    exact serve_sameButChecks_of_blankChecks_eq hr.symm (h.withRequests hrest.symm)

end

/-- Settles O51, by induction on the number of steps: each step keeps the relation, or is refused alike. -/
theorem checkBytesNeverReachAFieldOrAResult : Obligations.CheckBytesNeverReachAFieldOrAResult := by
  intro k
  induction k with
  | zero => exact fun _ _ h => h
  | succ k ih => exact fun _ _ h => andThen_sameButChecks (step_sameButChecks h) ih

end Sys2Proof.Machine
end

section
/-! The host's transactions (45_host_transactions.md). The key facts: a facade operation sends one frame, and by the outcomes of its calls
it ends in one of four ways (`runFacade_cases`); a request makes one of four lists of calls, and each list decides how the last call has
then ended (`CallsMade`, `serve_recorded`); a request that meets the host's duties is served, and the ones after it still meet them
(`serve_dutiful`); an operation's frame is sent by the first two requests of its sequence (`run_encode_wr`). -/

namespace Sys2Proof.Machine

open Sys2Proof.Statements

/-! ## Encoding a frame and writing it (R94 to R98) -/

/-- The frame is driven and then written: how every facade operation begins. -/
def State.afterSend (f : List Byte) (s : State) : State := (s.driveFrame f f.length).afterWrite f

section
variable (f : List Byte) (s : State)

@[simp] theorem State.afterSend_mrd : (s.afterSend f).mrd = s.mrd := rfl
@[simp] theorem State.afterSend_log : (s.afterSend f).log = s.log ++ [.write Config.busAddr7 f] := rfl
@[simp] theorem State.afterSend_lastCall : (s.afterSend f).lastCall = some s.writeResult := rfl
@[simp] theorem State.afterSend_results : (s.afterSend f).results = s.results := rfl

/-- The read drawn next is the one drawn with the write before it (R92; log 6). -/
@[simp] theorem State.afterSend_readDraw : (s.afterSend f).readDraw = readDrawAfter 1 s := by
  simp [State.readDraw, readDrawAfter, State.afterSend]

/-- A host operation that gives its result after the write has ended in the statements' `sent`. -/
theorem State.giveResult_afterSend (rest : List Request) (r : HostResult) :
    ((s.withRequests rest).afterSend f).giveResult r = sent s rest f r := rfl

end

theorem ofWrite_eq_resultOf (r : TransportResult) : HostResult.ofWrite r = resultOf r := by cases r <;> rfl

/-! ## What a facade operation does, by the outcomes of its calls (R93 to R98) -/

/-- The frame an operation sends: its command's, or for `read()` the ReadMeasurement request's (R94 to R98). -/
def FacadeOp.frame (op : FacadeOp) : List Byte := Pseudo.frame Config.opcodes (op.command.getD .readReq)

theorem FacadeOp.frame_of_command {op : FacadeOp} {c : Pseudo} (h : op.command = some c) :
    op.frame = Pseudo.frame Config.opcodes c := by simp [FacadeOp.frame, h]

/-- An operation with one write sends its frame and gives the write's outcome (R93 to R97). -/
theorem runFacade_of_command_next {op : FacadeOp} {c : Pseudo} (h : op.command = some c) (s : State) :
    runFacade op s = .next ((s.afterSend op.frame).giveResult (.ofWrite s.writeResult)) := by
  rw [runFacade_of_command h, FacadeOp.frame_of_command h]
  exact sendCommand_next c s

/-- An operation whose write fails ends there, with that error (R93). -/
theorem runFacade_of_write_err {s : State} {e : TransportError} (h : s.writeResult = .err e) (op : FacadeOp) :
    runFacade op s = .next ((s.afterSend op.frame).giveResult (.err e)) := by
  rcases op.read_or_command with rfl | ⟨c, hc⟩
  · rcases facadeRead_cases s with ⟨e', hw, he⟩ | ⟨_, hw, -⟩ | ⟨_, hw, -⟩
    · cases h.symm.trans hw
      exact he
    · cases h.symm.trans hw
    · cases h.symm.trans hw
  · rw [runFacade_of_command_next hc, h]
    rfl

/-- A `read()` whose write succeeds and whose read fails ends there, with that error (R93, R98). -/
theorem runFacade_of_read_err {s : State} {e : TransportError} (hw : s.writeResult = .ok)
    (hr : (s.afterSend FacadeOp.read.frame).readDraw.result = .err e) :
    runFacade .read s = .next ((s.afterSend FacadeOp.read.frame).afterRead.giveResult (.err e)) := by
  rcases facadeRead_cases s with ⟨_, hw', -⟩ | ⟨e', -, hr', he⟩ | ⟨_, -, hr', -⟩
  · cases hw.symm.trans hw'
  · cases hr.symm.trans hr'
    exact he
  · cases hr.symm.trans hr'

/-- A `read()` whose calls both succeed drives what the bytes read decode to, and gives its fields (R98). -/
theorem runFacade_of_read_ok {s : State} {o : MrdOutput} (hw : s.writeResult = .ok)
    (hr : (s.afterSend FacadeOp.read.frame).readDraw.result = .ok)
    (ho : decodeResponse (s.afterSend FacadeOp.read.frame).readDraw.bytes.toList = some o) :
    runFacade .read s =
      .next (((s.afterSend FacadeOp.read.frame).afterRead.driveMeasurement o).giveResult (.measured o.measurement)) := by
  rcases facadeRead_cases s with ⟨_, hw', -⟩ | ⟨_, -, hr', -⟩ | ⟨o', -, -, ho', he⟩
  · cases hw.symm.trans hw'
  · cases hr.symm.trans hr'
  · cases ho.symm.trans ho'
    exact he

/-- Every 18 bytes decode, byte by byte as written out (R75, R84). -/
theorem decodeResponse_toList (v : Vector Byte 18) :
    decodeResponse v.toList = some {
      co2 := v[0] ++ v[1] ++ v[3] ++ v[4]
      temperature := v[6] ++ v[7] ++ v[9] ++ v[10]
      humidity := v[12] ++ v[13] ++ v[15] ++ v[16]
      chk := #v[v[2], v[5], v[8], v[11], v[14], v[17]] } :=
  decodeResponse_eq_some v.length_toList

/-- The four ways a facade operation ends: its write fails; its one write succeeds; the read of `read()` fails; or it succeeds (R93 to R98). -/
theorem runFacade_cases (op : FacadeOp) (s : State) :
    (∃ e, s.writeResult = .err e ∧ runFacade op s = .next ((s.afterSend op.frame).giveResult (.err e))) ∨
    (s.writeResult = .ok ∧ (∃ c, op.command = some c) ∧
      runFacade op s = .next ((s.afterSend op.frame).giveResult .done)) ∨
    (∃ e, s.writeResult = .ok ∧ op = .read ∧ (s.afterSend op.frame).readDraw.result = .err e ∧
      runFacade op s = .next ((s.afterSend op.frame).afterRead.giveResult (.err e))) ∨
    (∃ o, s.writeResult = .ok ∧ op = .read ∧ (s.afterSend op.frame).readDraw.result = .ok ∧
      decodeResponse (s.afterSend op.frame).readDraw.bytes.toList = some o ∧
      runFacade op s =
        .next (((s.afterSend op.frame).afterRead.driveMeasurement o).giveResult (.measured o.measurement))) := by
  cases hw : s.writeResult with
  | err e => exact .inl ⟨e, rfl, runFacade_of_write_err hw op⟩
  | ok =>
    rcases op.read_or_command with rfl | ⟨c, hc⟩
    · cases hr : (s.afterSend FacadeOp.read.frame).readDraw.result with
      | err e => exact .inr (.inr (.inl ⟨e, rfl, rfl, rfl, runFacade_of_read_err hw hr⟩))
      | ok =>
        have ho := decodeResponse_toList (s.afterSend FacadeOp.read.frame).readDraw.bytes
        exact .inr (.inr (.inr ⟨_, rfl, rfl, rfl, ho, runFacade_of_read_ok hw hr ho⟩))
    · refine .inr (.inl ⟨rfl, ⟨c, hc⟩, ?_⟩)
      rw [runFacade_of_command_next hc, hw]
      rfl

/-! ## The operations with one write (R94 to R97) -/

theorem step_of_facade {s : State} {rest : List Request} {op : FacadeOp} (hq : s.requests = .facade op :: rest) :
    step s = runFacade op (s.withRequests rest) := step_of_cons hq

theorem step_of_command {s : State} {rest : List Request} {op : FacadeOp} {c : Pseudo}
    (hq : s.requests = .facade op :: rest) (hc : op.command = some c) :
    step s = .next (sent s rest (Pseudo.frame Config.opcodes c) (resultOf s.writeResult)) := by
  rw [step_of_facade hq, ← ofWrite_eq_resultOf, ← FacadeOp.frame_of_command hc, ← State.giveResult_afterSend]
  exact runFacade_of_command_next hc _

/-- Settles O43: `reset()` sends the bare opcode of SOFT_RESET. -/
theorem resetWritesSoftResetOnce : Obligations.ResetWritesSoftResetOnce :=
  fun _ _ hq => step_of_command hq rfl

/-- Settles O44: both operations send START with its argument, whose bytes are known. -/
theorem startMeasuringWritesThePressure : Obligations.StartMeasuringWritesThePressure := by
  refine fun s rest => ⟨fun hq => ?_, fun p hq => ?_⟩
  · have hframe := frameF4_start Config.opcodes 0
    exact hframe ▸ step_of_command hq rfl
  · have hframe := frameF4_start Config.opcodes p
    exact hframe ▸ step_of_command hq rfl

/-- Settles O45: the operation sends ASC with the flag, whose high byte is 0. -/
theorem setAutomaticCalibrationWritesTheFlag : Obligations.SetAutomaticCalibrationWritesTheFlag := by
  intro s rest enabled hq
  cases enabled with
  | true =>
    have hframe := frameF4_asc Config.opcodes 1
    exact hframe ▸ step_of_command hq rfl
  | false =>
    have hframe := frameF4_asc Config.opcodes 0
    exact hframe ▸ step_of_command hq rfl

/-! ## `read()` (R98) -/

/-- The frame sent and 18 bytes read, field by field: two calls are logged, the read's outcome is the last. -/
theorem State.afterRead_afterSend (f : List Byte) (s : State) :
    (s.afterSend f).afterRead = { s.afterSend f with
      readDraws := s.readDraws.tail
      rx := (s.afterSend f).readDraw.bytes.toList
      log := s.log ++ [.write Config.busAddr7 f, .read Config.busAddr7 18]
      lastCall := some (s.afterSend f).readDraw.result } :=
  State.ext rfl rfl rfl rfl rfl rfl (List.append_assoc _ _ _) rfl rfl

/-- Settles O46, by the three ways `read()` ends. -/
theorem readWritesThenReadsThenDecodes : Obligations.ReadWritesThenReadsThenDecodes := by
  intro s rest hq
  have hread := State.afterRead_afterSend FacadeOp.read.frame (s.withRequests rest)
  rw [step_of_facade hq]
  refine ⟨fun e hw => runFacade_of_write_err (s := s.withRequests rest) hw .read, fun hw => ⟨fun e hr => ?_, fun hr => ?_⟩⟩
  · exact hread ▸ runFacade_of_read_err hw hr
  · exact hread ▸ runFacade_of_read_ok hw hr (decodeResponse_toList _)

/-! ## A failed call (R93, R105) -/

/-- Where the last call failed its error is the result; where it succeeded the result is no error (R93). -/
theorem runFacade_result {op : FacadeOp} {s t : State} (h : runFacade op s = .next t) :
    (∀ e, t.lastCall = some (.err e) → t.results = s.results ++ [.err e] ∧ t.mrd = s.mrd) ∧
    (t.lastCall = some .ok → ∃ r, t.results = s.results ++ [r] ∧ ∀ e, r ≠ .err e) := by
  rcases runFacade_cases op s with ⟨e, hw, he⟩ | ⟨hw, -, he⟩ | ⟨e, -, -, hr, he⟩ | ⟨o, -, -, hr, -, he⟩
  · cases he.symm.trans h
    simp [hw]
  · cases he.symm.trans h
    simp [hw]
  · cases he.symm.trans h
    rw [State.afterSend_readDraw] at hr
    simp [hr]
  · cases he.symm.trans h
    rw [State.afterSend_readDraw] at hr
    simp [hr]

@[simp] theorem readFrame_afterSend (f : List Byte) (s : State) : readFrame (s.afterSend f) = .ok f :=
  congrArg Except.ok (List.take_length)

/-- A failed write leaves the measurement ports and `RX`, and the frame it wrote is at the port (R93, R105). -/
theorem runFacade_after_write_err {op : FacadeOp} {s t : State} {e : TransportError} (hw : s.writeResult = .err e)
    (h : runFacade op s = .next t) :
    t.results = s.results ++ [.err e] ∧ t.lastCall = some (.err e) ∧ t.mrd = s.mrd ∧ t.rx = s.rx ∧
      ∃ f, t.log = s.log ++ [.write Config.busAddr7 f] ∧ readFrame t = .ok f := by
  cases (runFacade_of_write_err hw op).symm.trans h
  exact ⟨rfl, congrArg some hw, rfl, rfl, op.frame, rfl, readFrame_afterSend op.frame s⟩

/-- A failed read leaves the measurement ports, and the frame written before it is at the port (R93, R105). -/
theorem runFacade_after_read_err {s t : State} {e : TransportError} (hw : s.writeResult = .ok)
    (hr : (readDrawAfter 1 s).result = .err e) (h : runFacade .read s = .next t) :
    t.results = s.results ++ [.err e] ∧ t.lastCall = some (.err e) ∧ t.mrd = s.mrd ∧
      ∃ f, t.log = s.log ++ [.write Config.busAddr7 f, .read Config.busAddr7 18] ∧ readFrame t = .ok f := by
  rw [← State.afterSend_readDraw FacadeOp.read.frame] at hr
  cases (runFacade_of_read_err hw hr).symm.trans h
  exact ⟨rfl, congrArg some hr, rfl, _, List.append_assoc _ _ _, readFrame_afterSend FacadeOp.read.frame s⟩

/-- Settles O47: a failed write and a failed read, then the result by the last call. -/
theorem aFailedCallEndsTheOperation : Obligations.AFailedCallEndsTheOperation := by
  intro s t rest op hq h
  rw [step_of_facade hq] at h
  refine ⟨fun e hw => runFacade_after_write_err (s := s.withRequests rest) hw h, ?_,
    runFacade_result (s := s.withRequests rest) h⟩
  rintro e rfl hw hr
  exact runFacade_after_read_err (s := s.withRequests rest) hw hr h

/-! ## The calls a request makes, and how the last of them ends (R89 to R93, R98) -/

/-- The calls one request can make in a state, and how the last call of all has then ended. -/
inductive CallsMade (s : State) : List TransportCall → Option TransportResult → Prop
  | none : CallsMade s [] s.lastCall
  | write (f : List Byte) : CallsMade s [.write Config.busAddr7 f] (some s.writeResult)
  | read : CallsMade s [.read Config.busAddr7 18] (some (readDrawAfter 0 s).result)
  | writeRead (f : List Byte) :
      CallsMade s [.write Config.busAddr7 f, .read Config.busAddr7 18] (some (readDrawAfter 1 s).result)

section
variable {s : State} {calls : List TransportCall} {last : Option TransportResult}

/-- A frame sent, then a read: the read's outcome is the last. -/
theorem CallsMade.of_send_read (f : List Byte) :
    CallsMade s [.write Config.busAddr7 f, .read Config.busAddr7 18] (some (s.afterSend f).readDraw.result) := by
  rw [State.afterSend_readDraw]
  exact .writeRead f

/-- The calls made do not depend on what is still pending. -/
theorem CallsMade.of_withRequests {q : List Request} (h : CallsMade (s.withRequests q) calls last) :
    CallsMade s calls last := by
  cases h with
  | none => exact .none
  | write f => exact .write f
  | read => exact .read
  | writeRead f => exact .writeRead f

theorem CallsMade.length_le (h : CallsMade s calls last) : calls.length ≤ 2 := by
  cases h <;> simp

/-- Every call goes to the one address (R90). -/
theorem CallsMade.address (h : CallsMade s calls last) :
    ∀ c ∈ calls, (∃ bytes, c = .write Config.busAddr7 bytes) ∨ (∃ n, c = .read Config.busAddr7 n) := by
  cases h <;> simp

theorem CallsMade.last_of_nil (h : CallsMade s [] last) : last = s.lastCall := by
  cases h
  rfl

theorem CallsMade.last_of_write (h : CallsMade s calls last) {addr : BitVec 7} {bytes : List Byte}
    (hlast : calls.getLast? = some (.write addr bytes)) : last = some s.writeResult := by
  cases h with
  | write f => rfl
  | none => simp at hlast
  | read => simp at hlast
  | writeRead f => simp at hlast

theorem CallsMade.last_of_read (h : CallsMade s calls last) {addr : BitVec 7} {len : Nat}
    (hlast : calls.getLast? = some (.read addr len)) : last = some (readDrawAfter (calls.length - 1) s).result := by
  cases h with
  | read => rfl
  | writeRead f => rfl
  | none => simp at hlast
  | write f => simp at hlast

end

/-- The records after one request: the calls made and the results given stand after the earlier ones. -/
def Recorded (s t : State) : Prop :=
  ∃ calls given, CallsMade s calls t.lastCall ∧ t.log = s.log ++ calls ∧
    t.results = s.results ++ given ∧ given.length ≤ 1

/-- An update that makes no call and gives no result. -/
theorem Recorded.of_eq {s t : State} (hlog : t.log = s.log) (hlast : t.lastCall = s.lastCall)
    (hresults : t.results = s.results) : Recorded s t :=
  ⟨[], [], hlast ▸ .none, by simp [hlog], by simp [hresults], Nat.zero_le 1⟩

theorem runFacade_recorded {op : FacadeOp} {s t : State} (h : runFacade op s = .next t) : Recorded s t := by
  rcases runFacade_cases op s with ⟨e, -, he⟩ | ⟨-, -, he⟩ | ⟨e, -, -, -, he⟩ | ⟨o, -, -, -, -, he⟩
  · cases he.symm.trans h
    exact ⟨_, _, .write op.frame, rfl, rfl, le_rfl⟩
  · cases he.symm.trans h
    exact ⟨_, _, .write op.frame, rfl, rfl, le_rfl⟩
  · cases he.symm.trans h
    exact ⟨_, _, .of_send_read op.frame, List.append_assoc _ _ _, rfl, le_rfl⟩
  · cases he.symm.trans h
    exact ⟨_, _, .of_send_read op.frame, List.append_assoc _ _ _, rfl, le_rfl⟩

theorem exec_recorded {i : Instr} {s t : State} (h : exec i s = .next t) : Recorded s t := by
  rcases exec_next_cases h with ⟨-, f, n, rfl, -⟩ | ⟨-, o, rfl, -⟩
  · exact .of_eq rfl rfl rfl
  · exact .of_eq rfl rfl rfl

theorem serve_recorded {r : Request} {s t : State} (h : serve r s = .next t) : Recorded s t := by
  cases r with
  | cfe sel withArg a =>
    rcases Command.ofSel_cases sel with ⟨-, c, hc, -⟩ | ⟨hle, -⟩
    · exact exec_recorded ((serve_cfe_of_ofSel hc withArg a s).symm.trans h)
    · cases (serve_cfe_of_le hle withArg a s).symm.trans h
  | mrd => exact exec_recorded ((serve_mrd s).symm.trans h)
  | wr =>
    rcases serve_wr_cases s with ⟨o, -, he⟩ | ⟨-, he⟩
    · cases he.symm.trans h
      exact ⟨_, [], .write _, rfl, (List.append_nil _).symm, Nat.zero_le 1⟩
    · cases he.symm.trans h
  | rd =>
    cases (serve_rd s).symm.trans h
    exact ⟨_, [], .read, rfl, (List.append_nil _).symm, Nat.zero_le 1⟩
  | fill bytes =>
    cases (serve_fill bytes s).symm.trans h
    exact .of_eq rfl rfl rfl
  | facade op => exact runFacade_recorded h

theorem step_recorded {s t : State} (h : step s = .next t) : Recorded s t := by
  cases hq : s.requests with
  | nil =>
    cases (step_of_nil hq).symm.trans h
    exact .of_eq rfl rfl rfl
  | cons r rest =>
    obtain ⟨calls, given, hmade, hrecords⟩ := serve_recorded ((step_of_cons hq).symm.trans h)
    exact ⟨calls, given, hmade.of_withRequests, hrecords⟩

/-- Settles O42, by the calls a step makes. -/
theorem theLogOnlyGrows : Obligations.TheLogOnlyGrows := by
  intro s t h
  obtain ⟨calls, given, hmade, hlog, hresults, hgiven⟩ := step_recorded h
  exact ⟨calls, given, hlog, hmade.length_le, hresults, hgiven, fun hnil => (hnil ▸ hmade).last_of_nil,
    fun _ _ => hmade.last_of_write, fun _ _ => hmade.last_of_read⟩

/-- Settles O41: every call made is at the one address, and the shifted byte is that address before the low bit. -/
theorem everyCallUsesTheOneAddress : Obligations.EveryCallUsesTheOneAddress := by
  refine ⟨fun s t h => ?_, fun d => ⟨?_, ?_⟩⟩
  · obtain ⟨calls, -, hmade, hlog, -⟩ := step_recorded h
    exact ⟨calls, hlog, hmade.address⟩
  · exact BitVec.extractLsb'_append_eq_left
  · exact BitVec.extractLsb'_append_eq_right

/-! ## A host that meets its duties (R100, R101; logs 1, 7, 14) -/

/-- Requests that meet the duties whether or not `RX` holds 18 bytes meet them where it does. -/
theorem dutiful_of_rxWhole {hasFrame rxWhole : Bool} {q : List Request} (h : dutiful hasFrame rxWhole q = true) :
    dutiful hasFrame true q = true := by
  induction q generalizing hasFrame rxWhole with
  | nil => rfl
  | cons r q ih =>
    cases r with
    | cfe sel withArg a =>
      obtain ⟨hsel, hq⟩ := Bool.and_eq_true_iff.mp h
      exact Bool.and_eq_true_iff.mpr ⟨hsel, ih hq⟩
    | mrd =>
      obtain ⟨-, hq⟩ := Bool.and_eq_true_iff.mp h
      exact Bool.and_eq_true_iff.mpr ⟨rfl, ih hq⟩
    | wr =>
      obtain ⟨hframe, hq⟩ := Bool.and_eq_true_iff.mp h
      exact Bool.and_eq_true_iff.mpr ⟨hframe, ih hq⟩
    | rd => exact h
    | fill bytes => exact h
    | facade op => exact ih h

theorem State.dutiful_of_eq {s : State} {hasFrame rxWhole : Bool} {q : List Request} (hcfe : s.cfe.isSome = hasFrame)
    (hrx : (s.rx.length == Config.respLen) = rxWhole) (hq : s.requests = q)
    (h : Machine.dutiful hasFrame rxWhole q = true) : s.dutiful = true := by
  rw [State.dutiful, hcfe, hrx, hq, h]

/-- A facade operation is served whatever the transport's outcomes, and leaves a frame at the port; `RX` is left or holds 18 bytes. -/
theorem runFacade_ports (op : FacadeOp) (s : State) :
    ∃ t, runFacade op s = .next t ∧ t.cfe.isSome = true ∧ (t.rx = s.rx ∨ t.rx.length = 18) := by
  rcases runFacade_cases op s with ⟨e, -, he⟩ | ⟨-, -, he⟩ | ⟨e, -, -, -, he⟩ | ⟨o, -, -, -, -, he⟩
  · exact ⟨_, he, rfl, .inl rfl⟩
  · exact ⟨_, he, rfl, .inl rfl⟩
  · exact ⟨_, he, rfl, .inr (State.afterRead_rx_length _)⟩
  · exact ⟨_, he, rfl, .inr (State.afterRead_rx_length _)⟩

/-- A request that meets the host's duties is served, and the ones after it meet them still. -/
theorem serve_dutiful {r : Request} {s : State}
    (h : Machine.dutiful s.cfe.isSome (s.rx.length == Config.respLen) (r :: s.requests) = true) :
    ∃ t, serve r s = .next t ∧ t.dutiful = true := by
  cases r with
  | cfe sel withArg a =>
    obtain ⟨hsel, hq⟩ := Bool.and_eq_true_iff.mp h
    rcases serve_cfe_cases sel withArg a s with ⟨c, -, -, he⟩ | ⟨c, -, -, he⟩ | ⟨hle, -⟩
    · exact ⟨_, he, hq⟩
    · exact ⟨_, he, hq⟩
    · exact absurd (of_decide_eq_true hsel) (Nat.not_lt.mpr hle)
  | mrd =>
    obtain ⟨hrx, hq⟩ := Bool.and_eq_true_iff.mp h
    rcases serve_mrd_cases s with ⟨-, o, -, he⟩ | ⟨hne, -⟩
    · exact ⟨_, he, hq⟩
    · exact absurd (beq_iff_eq.mp hrx) hne
  | wr =>
    obtain ⟨hframe, hq⟩ := Bool.and_eq_true_iff.mp h
    obtain ⟨o, ho⟩ := Option.isSome_iff_exists.mp hframe
    exact ⟨_, serve_wr_of_some ho, hq⟩
  | rd =>
    have hrx : (s.afterRead.rx.length == Config.respLen) = true := beq_iff_eq.mpr s.afterRead_rx_length
    exact ⟨_, serve_rd s, State.dutiful_of_eq rfl hrx rfl h⟩
  | fill bytes => exact ⟨_, serve_fill bytes s, h⟩
  | facade op =>
    obtain ⟨t, he, hframe, hrx⟩ := runFacade_ports op s
    have hq : t.requests = s.requests := runFacade_keeps_requests he
    rcases hrx with hrx | hrx
    · exact ⟨t, he, State.dutiful_of_eq hframe (by rw [hrx]) hq h⟩
    · exact ⟨t, he, State.dutiful_of_eq hframe (beq_iff_eq.mpr hrx) hq (dutiful_of_rxWhole h)⟩

/-- Settles O53: a step waits, or serves its first request. -/
theorem aServedHostStaysDutiful : Obligations.AServedHostStaysDutiful := by
  intro s h
  cases hq : s.requests with
  | nil => exact ⟨s, step_of_nil hq, h⟩
  | cons r rest =>
    rw [State.dutiful, hq] at h
    rw [step_of_cons hq]
    exact serve_dutiful (s := s.withRequests rest) h

/-- Settles O39, by induction on the number of steps: each is answered, and the host stays dutiful. -/
theorem aDutifulHostIsNeverStopped : Obligations.ADutifulHostIsNeverStopped := by
  intro k
  induction k with
  | zero => exact fun s _ => ⟨s, rfl⟩
  | succ k ih =>
    intro s h
    obtain ⟨t, hstep, ht⟩ := aServedHostStaysDutiful s h
    obtain ⟨u, hrun⟩ := ih t ht
    exact ⟨u, by rw [run_succ, hstep, andThen_next, hrun]⟩

/-! ## Reads follow their request (R98, R116) -/

/-- What goes on after a next state answers one only if that was reached. -/
theorem exists_next_of_andThen {o : Result} {k : State → Result} {t : State} (h : andThen o k = .next t) :
    ∃ s, o = .next s ∧ k s = .next t := by
  cases o with
  | next s => exact ⟨s, rfl, h⟩
  | fault f => cases f
  | refused r => cases h

/-- What every step keeps holds after a run of any length. -/
theorem run_keeps {P : State → Prop} (hstep : ∀ s t, P s → step s = .next t → P t) {k : Nat} {s t : State} (hs : P s)
    (h : run k s = .next t) : P t := by
  induction k generalizing s with
  | zero =>
    cases h
    exact hs
  | succ k ih =>
    obtain ⟨u, hnext, hrest⟩ := exists_next_of_andThen h
    exact ih (hstep s u hs hnext) hrest

/-- Where two logs keep the discipline, the one followed by the other does. -/
theorem ReadsFollowRequest.append {log calls : List TransportCall} (hlog : ReadsFollowRequest log)
    (hcalls : ReadsFollowRequest calls) : ReadsFollowRequest (log ++ calls) := by
  intro i addr len hi
  rcases Nat.lt_or_ge i log.length with hlt | hge
  · rw [List.getElem?_append_left hlt] at hi
    obtain ⟨j, rfl, hj⟩ := hlog i addr len hi
    exact ⟨j, rfl, by rwa [List.getElem?_append_left (Nat.lt_of_succ_lt hlt)]⟩
  · obtain ⟨k, rfl⟩ := Nat.exists_eq_add_of_le hge
    rw [List.getElem?_append_right hge, Nat.add_sub_cancel_left] at hi
    obtain ⟨j, rfl, hj⟩ := hcalls k addr len hi
    exact ⟨log.length + j, rfl, by rwa [List.getElem?_append_right (Nat.le_add_right _ j), Nat.add_sub_cancel_left]⟩

theorem readsFollowRequest_write (addr : BitVec 7) (f : List Byte) : ReadsFollowRequest [.write addr f] := by
  intro i _ _ hi
  match i, hi with
  | 0, hi => cases hi

theorem readsFollowRequest_request_read (addr : BitVec 7) (n : Nat) :
    ReadsFollowRequest [.write Config.busAddr7 (frameF2 Config.opcodes .readMeas), .read addr n] := by
  intro i _ _ hi
  match i, hi with
  | 0, hi => cases hi
  | 1, _ => exact ⟨0, rfl, rfl⟩

/-- A facade operation reads only in `read()`, right after its own ReadMeasurement write (R98, R116). -/
theorem runFacade_keeps_readsFollowRequest {op : FacadeOp} {s t : State} (hs : ReadsFollowRequest s.log)
    (h : runFacade op s = .next t) : ReadsFollowRequest t.log := by
  rcases op.read_or_command with rfl | ⟨c, hc⟩
  · obtain ⟨calls, hlog, rfl | rfl⟩ := facadeRead_log h
    · exact hlog ▸ hs.append (readsFollowRequest_write _ _)
    · exact hlog ▸ hs.append (readsFollowRequest_request_read _ 18)
  · have hlog := sendCommand_log ((runFacade_of_command hc s).symm.trans h)
    exact hlog ▸ hs.append (readsFollowRequest_write _ _)

/-- The host asks for facade operations only, and every read so far follows its request: the two that `step` keeps together. -/
def FacadeDiscipline (s : State) : Prop := FacadeOnly s ∧ ReadsFollowRequest s.log

theorem step_keeps_facadeDiscipline (s t : State) (hs : FacadeDiscipline s) (h : step s = .next t) :
    FacadeDiscipline t := by
  obtain ⟨honly, hreads⟩ := hs
  have hq : t.requests = s.requests.tail := requestsAreServedInOrder s t h
  refine ⟨fun r hr => honly r (List.mem_of_mem_tail (hq ▸ hr)), ?_⟩
  cases hs : s.requests with
  | nil =>
    cases (step_of_nil hs).symm.trans h
    exact hreads
  | cons r rest =>
    obtain ⟨op, rfl⟩ := honly r (by simp [hs])
    exact runFacade_keeps_readsFollowRequest (s := s.withRequests rest) hreads ((step_of_facade hs).symm.trans h)

/-- Settles O50: every step of a host that uses the facade only keeps the discipline, and so does a run. -/
theorem everyReadFollowsItsRequest : Obligations.EveryReadFollowsItsRequest :=
  fun _ _ _ honly hreads h => run_keeps step_keeps_facadeDiscipline ⟨honly, hreads⟩ h

/-! ## A facade operation as its sequence of requests (R93 to R98; logs 13, 14) -/

/-- An operation's sequence begins with the request that encodes its frame, and `WR`. -/
theorem FacadeOp.exists_encode (op : FacadeOp) :
    ∃ r, op.sequence.take 2 = [r, .wr] ∧ ∀ s, serve r s = .next (s.driveFrame op.frame op.frame.length) := by
  cases op with
  | reset => exact ⟨_, rfl, serve_enc_of_ofSel (Command.ofSel_sel .softReset) 0⟩
  | startMeasuring => exact ⟨_, rfl, serve_enca_of_ofSel (Command.ofSel_sel .start) 0⟩
  | startMeasuringWithPressure p => exact ⟨_, rfl, serve_enca_of_ofSel (Command.ofSel_sel .start) p⟩
  | setAutomaticCalibration enabled =>
    cases enabled with
    | true => exact ⟨_, rfl, serve_enca_of_ofSel (Command.ofSel_sel .asc) 1⟩
    | false => exact ⟨_, rfl, serve_enca_of_ofSel (Command.ofSel_sel .asc) 0⟩
  | read => exact ⟨_, rfl, serve_enc_of_ofSel (Command.ofSel_sel .readMeas) 0⟩

/-- The first two steps of an operation's sequence send its frame. -/
theorem run_encode_wr (op : FacadeOp) (k : Nat) (q : List Request) (s : State) :
    run (k + 2) (s.withRequests (op.sequence.take 2 ++ q)) = run k ((s.withRequests q).afterSend op.frame) := by
  obtain ⟨r, htake, hserve⟩ := op.exists_encode
  rw [htake, run_of_cons (k + 1) rfl (hserve _), run_of_cons k rfl (serve_wr_of_some rfl), List.take_length]
  rfl

/-- The first three steps of the sequence of `read()` send its frame and read. -/
theorem run_encode_wr_rd (k : Nat) (q : List Request) (s : State) :
    run (k + 3) (s.withRequests (FacadeOp.read.sequence.take 3 ++ q)) =
      run k ((s.withRequests q).afterSend FacadeOp.read.frame).afterRead :=
  (run_encode_wr .read (k + 1) (.rd :: q) s).trans (run_of_cons k rfl (serve_rd _))

/-- The whole sequence of `read()` then drives what the bytes read decode to. -/
theorem run_read_sequence {s : State} {q : List Request} {o : MrdOutput}
    (ho : decodeResponse ((s.withRequests q).afterSend FacadeOp.read.frame).readDraw.bytes.toList = some o) :
    run 4 (s.withRequests (FacadeOp.read.sequence ++ q)) =
      .next (((s.withRequests q).afterSend FacadeOp.read.frame).afterRead.driveMeasurement o) :=
  (run_encode_wr_rd 1 (.mrd :: q) s).trans (run_of_cons 0 rfl (exec_dec_of_decodeResponse ho _))

/-- The whole sequence of an operation with one write encodes and writes. -/
theorem FacadeOp.sequence_length_of_command {op : FacadeOp} {c : Pseudo} (h : op.command = some c) :
    op.sequence.length = 2 := by
  cases op with
  | read => cases h
  | _ => rfl

/-- Settles O49, by the four ways the operation ends; how many calls it made is read off the log. -/
theorem aFacadeOperationIsItsSequence : Obligations.AFacadeOperationIsItsSequence := by
  intro s t rest op hq h
  rw [step_of_facade hq] at h
  rcases runFacade_cases op (s.withRequests rest) with
    ⟨e, hw, he⟩ | ⟨hw, ⟨c, hc⟩, he⟩ | ⟨e, -, rfl, hr, he⟩ | ⟨o, -, rfl, hr, ho, he⟩
  · cases he.symm.trans h
    refine ⟨fun hok => ?_, fun _ _ => ?_⟩
    · cases hw.symm.trans (Option.some.inj hok)
    · have hmade : 1 + (((s.withRequests rest).afterSend op.frame).log.length - s.log.length) = 2 := by simp
      exact hmade ▸ run_encode_wr op 0 rest s
  · cases he.symm.trans h
    refine ⟨fun _ => ?_, fun _ herr => ?_⟩
    · have hlen := FacadeOp.sequence_length_of_command hc
      have hrun := run_encode_wr op 0 rest s
      rw [List.take_of_length_le hlen.le] at hrun
      rw [hlen]
      exact hrun
    · cases hw.symm.trans (Option.some.inj herr)
  · cases he.symm.trans h
    refine ⟨fun hok => ?_, fun _ _ => ?_⟩
    · cases hr.symm.trans (Option.some.inj hok)
    · have hmade : 1 + (((s.withRequests rest).afterSend FacadeOp.read.frame).afterRead.log.length - s.log.length) = 3 := by
        simp
      exact hmade ▸ run_encode_wr_rd 0 rest s
  · cases he.symm.trans h
    refine ⟨fun _ => run_read_sequence ho, fun _ herr => ?_⟩
    cases hr.symm.trans (Option.some.inj herr)

end Sys2Proof.Machine
end

section
/-! Refusals (60_exceptions.md). The key facts: the three requests that can be refused are refused exactly on their own condition and by
its one reason (`serve_cfe_eq_refused_iff`, `serve_mrd_eq_refused_iff`, `serve_wr_eq_refused_iff`); the other three always complete. A step
that finds a request pending is refused where that request is. -/

namespace Sys2Proof.Machine

/-- Settles O23: it is what `DEC` does on any length but 18. -/
theorem decRefusesOtherLengths : Obligations.DecRefusesOtherLengths :=
  fun _ s hl => exec_dec_of_length_ne hl s

/-! ## When a request is refused, and why (R103; U9 for `WR`) -/

/-- What completes off a condition, and is refused by one reason on it, is refused exactly then and thus. -/
theorem eq_refused_iff {x : Result} {p : Prop} {reason : Refusal} (hrefused : p → x = .refused reason)
    (hnext : ¬p → ∃ t, x = .next t) (r : Refusal) : x = .refused r ↔ p ∧ r = reason := by
  by_cases hp : p
  · rw [hrefused hp, Host.Outcome.refused.injEq, eq_comm, and_iff_right hp]
  · obtain ⟨t, ht⟩ := hnext hp
    simp [ht, hp]

theorem serve_cfe_eq_refused_iff (sel : BitVec 4) (withArg : Bool) (a : Half) (s : State) (r : Refusal) :
    serve (.cfe sel withArg a) s = .refused r ↔ 11 ≤ sel.toNat ∧ r = .reservedSelector sel := by
  refine eq_refused_iff (fun hle => serve_cfe_of_le hle withArg a s) (fun hlt => ?_) r
  rcases serve_cfe_cases sel withArg a s with ⟨c, -, -, he⟩ | ⟨c, -, -, he⟩ | ⟨hle, -⟩
  · exact ⟨_, he⟩
  · exact ⟨_, he⟩
  · exact absurd hle hlt

theorem serve_mrd_eq_refused_iff (s : State) (r : Refusal) :
    serve .mrd s = .refused r ↔ s.rx.length ≠ 18 ∧ r = .responseLength s.rx.length := by
  refine eq_refused_iff (fun hne => exec_dec_of_length_ne hne s) (fun hl => ?_) r
  obtain ⟨o, ho⟩ := exec_dec_of_length (not_not.mp hl)
  exact ⟨_, ho s⟩

theorem serve_wr_of_none {s : State} (h : s.cfe = none) : serve .wr s = .refused (.outputNoValue .frame) := by
  rcases serve_wr_cases s with ⟨o, ho, -⟩ | ⟨-, he⟩
  · cases h.symm.trans ho
  · exact he

theorem serve_wr_eq_refused_iff (s : State) (r : Refusal) :
    serve .wr s = .refused r ↔ s.cfe = none ∧ r = .outputNoValue .frame := by
  refine eq_refused_iff serve_wr_of_none (fun hsome => ?_) r
  obtain ⟨o, ho⟩ := Option.ne_none_iff_exists'.mp hsome
  exact ⟨_, serve_wr_of_some ho⟩

/-- Settles O30: the step serves the request, which is refused on its one condition. -/
theorem blockRefusalsAreAClosedList : Obligations.BlockRefusalsAreAClosedList := by
  refine ⟨fun s rest sel withArg a r hq => ?_, fun s rest r hq => ?_⟩
  · rw [step_of_cons hq]
    exact serve_cfe_eq_refused_iff sel withArg a _ r
  · rw [step_of_cons hq]
    exact serve_mrd_eq_refused_iff _ r

/-! ## Every way a step is refused (R103, U9; log 10) -/

/-- A facade operation completes whatever the transport's outcomes: it drives its frame before it writes, and decodes 18 bytes. -/
theorem serve_facade_ne_refused (op : FacadeOp) (s : State) (r : Refusal) : serve (.facade op) s ≠ .refused r := by
  obtain ⟨t, ht, -⟩ := runFacade_ports op s
  have hserve : serve (.facade op) s = .next t := ht
  simp [hserve]

/-- The three kinds of request that can be refused, each on its condition. -/
theorem serve_eq_refused_iff (q : Request) (s : State) (r : Refusal) :
    serve q s = .refused r ↔
      (∃ sel withArg a, q = .cfe sel withArg a ∧ 11 ≤ sel.toNat ∧ r = .reservedSelector sel) ∨
      (q = .mrd ∧ s.rx.length ≠ 18 ∧ r = .responseLength s.rx.length) ∨
      (q = .wr ∧ s.cfe = none ∧ r = .outputNoValue .frame) := by
  cases q with
  | cfe sel withArg a => simp [serve_cfe_eq_refused_iff]
  | mrd => simp [serve_mrd_eq_refused_iff]
  | wr => simp [serve_wr_eq_refused_iff]
  | rd => simp
  | fill bytes => simp
  | facade op => simp [serve_facade_ne_refused]

/-- Settles O38: a step waits with none pending, or serves the first request. -/
theorem aStepIsRefusedOnlyThus : Obligations.AStepIsRefusedOnlyThus := by
  intro s r
  cases hq : s.requests with
  | nil => simp [step_of_nil hq]
  | cons q rest =>
    rw [step_of_cons hq, serve_eq_refused_iff]
    simp

end Sys2Proof.Machine
end
